-- ==== Sys2Proof/Word.lean ====
section
/-! DEFINITION. The word types of the block: register bytes, command words, samples, binary64 values (R7, R14, R36, R50). -/

namespace Sys2Proof

/-- A register byte or a ring-buffer byte (R14, R35). -/
abbrev Byte := BitVec 8

/-- A 16-bit command word (R50). -/
abbrev CmdWord := BitVec 16

/-- A register index 0x00-0x1F, chip address $4000 + index (R9, R55). -/
abbrev RegIndex := BitVec 5

/-- A 16-bit two's-complement sample (R36, R122). -/
abbrev Sample := BitVec 16

/-- The 64 bits of an IEEE 754 binary64 value (R7, R29). -/
abbrev F64 := BitVec 64

end Sys2Proof
end

