-- ==== Sys2Proof/Config.lean ====
section
/-! DEFINITION. What an implementation fixes and the source leaves open: the chunk size (R6), the bits of a NaN, and the record of
parameters that a construction is given. -/

namespace Sys2Proof

/-- The implementation's choice of the chunk size, counted from 0. No body: nothing is known of it but its
range. `CHUNK_SAMPLES` is the one OPEN parameter of R6 (D22, N3, I6); log 5. -/
opaque Config.chunkChoice : Fin 96000

/-- `CHUNK_SAMPLES` (R6, R125): legal by construction, `1 <= CHUNK_SAMPLES` and
`2 * CHUNK_SAMPLES <= FIFO_CAPACITY` (R127), and otherwise unknown. -/
def Config.chunkSamples : Nat := Config.chunkChoice.val + 1

/-- DESIGN CHOICE: the sign of the bit pattern that the name `NaN` stands for (R60, R113, where the spec gives no pattern). No body:
nothing is known of it. Safe; log 12. -/
opaque Config.nanSign : Bool

/-- DESIGN CHOICE: the fraction of that bit pattern, counted from 1, since a NaN's fraction is not zero (R60, R113). No body:
nothing is known of it but its range. Safe; log 12. -/
opaque Config.nanFraction : Fin 4503599627370495

/-- The parameters whose values a construction may refuse (R127, R133). -/
structure Config.Params where
  /-- `CHIP_CLOCK_HZ`. -/
  chipClockHz : Nat
  /-- `SAMPLE_RATE`. -/
  sampleRate : Nat
  /-- `FIFO_CAPACITY`, in bytes. -/
  fifoCapacity : Nat
  /-- `CHUNK_SAMPLES`. -/
  chunkSamples : Nat
deriving DecidableEq, Repr

end Sys2Proof
end

