-- ==== Sys2Proof/Machine/Float64.lean ====
section
/-! DEFINITION. IEEE 754 binary64 on bit patterns, as far as the mixer uses it (R7, R122): exact results, rounded to
nearest, ties to even. Every finite value is a whole number of units of 2^-1074, so an exact result is a ratio of whole
numbers of units. The operations are IEEE 754's on finite operands; no rule applies one to a NaN or an infinity (log 8). -/

namespace Sys2Proof.Machine

/-- The sign bit. -/
def f64Neg (x : F64) : Bool := x.getLsbD 63

/-- The biased exponent field, bits 62 to 52. -/
def f64Exp (x : F64) : Nat := (x.extractLsb' 52 11).toNat

/-- The fraction field, bits 51 to 0. -/
def f64Frac (x : F64) : Nat := (x.extractLsb' 0 52).toNat

/-- NaN: exponent all ones, fraction not zero (R113). -/
def f64IsNaN (x : F64) : Bool := f64Exp x == 2047 && f64Frac x != 0

/-- An infinity of either sign (R113). -/
def f64IsInf (x : F64) : Bool := f64Exp x == 2047 && f64Frac x == 0

/-- Neither NaN nor an infinity (R29, R113). -/
def f64IsFinite (x : F64) : Bool := !(f64IsNaN x) && !(f64IsInf x)

/-- The number of units in 1.0. -/
def f64One : Nat := 2 ^ 1074

/-- The magnitude of a finite value, in units of 2^-1074. -/
def f64Units (x : F64) : Nat :=
  if f64Exp x = 0 then f64Frac x else (f64Frac x + 2 ^ 52) * 2 ^ (f64Exp x - 1)

/-- A finite value as a signed number of units. -/
def f64Signed (x : F64) : Int := if f64Neg x then -(f64Units x : Int) else (f64Units x : Int)

/-- `n / d` rounded to a whole number, ties to even (R7). -/
def roundTiesEven (n d : Nat) : Nat :=
  let q := n / d
  let r := n % d
  if 2 * r < d then q else if d < 2 * r then q + 1 else q + q % 2

/-- The exponent step of the binade that holds `q` units: the spacing of binary64 values there is `2 ^ step` units. -/
def f64Step (q : Nat) : Nat := if q < 2 ^ 53 then 0 else Nat.log2 q - 52

/-- The magnitude bits of the binary64 value nearest to `n / d` units (R7). A carry out of the significand moves
to the next exponent by itself, and a value past the largest finite one becomes an infinity. -/
def f64RoundMag (n d : Nat) : Nat :=
  let k := f64Step (n / d)
  min (k * 2 ^ 52 + roundTiesEven n (d * 2 ^ k)) (2047 * 2 ^ 52)

/-- A sign and magnitude bits as a bit pattern. -/
def f64Pack (neg : Bool) (mag : Nat) : F64 := BitVec.ofBool neg ++ BitVec.ofNat 63 mag

/-- The bit pattern that the name `NaN` stands for. DESIGN CHOICE: the spec names a NaN operand and gives no pattern (R60, R113),
so sign and fraction are free values of Config (log 12). -/
def f64NaN : F64 := f64Pack Config.nanSign (2047 * 2 ^ 52 + 1 + Config.nanFraction.val)

/-- The binary64 value of the given sign nearest to `n / d` units. -/
def f64Round (neg : Bool) (n d : Nat) : F64 := f64Pack neg (f64RoundMag n d)

/-- The binary64 value nearest to the non-negative number `n / d`: a decimal literal's value (R122). -/
def f64OfRatio (n d : Nat) : F64 := f64Round false (n * f64One) d

/-- `f64(n)`, exact for the small integers the mixer converts (R7). -/
def f64OfNat (n : Nat) : F64 := f64OfRatio n 1

/-- IEEE 754 addition of finite values. An exact zero sum is +0 unless both operands are negative. -/
def f64Add (x y : F64) : F64 :=
  let s := f64Signed x + f64Signed y
  if s = 0 then f64Pack (f64Neg x && f64Neg y) 0 else f64Round (decide (s < 0)) s.natAbs 1

/-- IEEE 754 multiplication of finite values. -/
def f64Mul (x y : F64) : F64 := f64Round (f64Neg x ^^ f64Neg y) (f64Units x * f64Units y) f64One

/-- IEEE 754 division of finite values. A division by zero is never reached (R122, R135): it answers an infinity, or a
NaN for 0 / 0 (log 8, log 12). -/
def f64Div (x y : F64) : F64 :=
  if f64Units y = 0 then (if f64Units x = 0 then f64NaN else f64Pack (f64Neg x ^^ f64Neg y) (2047 * 2 ^ 52))
  else f64Round (f64Neg x ^^ f64Neg y) (f64Units x * f64One) (f64Units y)

/-- `x < y` on finite values. -/
def f64Lt (x y : F64) : Bool := decide (f64Signed x < f64Signed y)

/-- `sign(y) * floor(|y| + 1/2)` on the exact value of `y`: rounding half away from zero (R122). -/
def f64RoundAway (y : F64) : Int :=
  let m := (2 * f64Units y + f64One) / (2 * f64One)
  if f64Neg y then -(m : Int) else (m : Int)

end Sys2Proof.Machine
end

