-- ==== Sys2Proof/Machine/Params.lean ====
section
/-! DEFINITION. The parameters of R6 at this hardware's values, and the construction check of R133. -/

namespace Sys2Proof.Machine

/-- `CHIP_CLOCK_HZ` (R6, D35). -/
def chipClockHz : Nat := 1789773

/-- `SAMPLE_RATE` (R6). -/
def sampleRate : Nat := 48000

/-- What one TICK adds to the sample accumulator, `2 * SAMPLE_RATE` (R121). -/
def tickPhase : Nat := 2 * sampleRate

/-- `FIFO_CAPACITY`: 2 s x 48000 x 2 bytes (R6, R30). -/
def fifoCapacity : Nat := 192000

/-- `FRAME4_WRAP` (R6, R115). -/
def frame4Wrap : Nat := 14915

/-- `FRAME5_WRAP` (R6, R115, D15). -/
def frame5Wrap : Nat := 18641

/-- One point of a frame schedule: its tick index and the events that fire there (R115). -/
structure FramePoint where
  /-- The value of `fc` at which the point stands. -/
  point : Nat
  /-- Whether a quarter frame fires. -/
  quarter : Bool
  /-- Whether a half frame fires. -/
  half : Bool
deriving DecidableEq, Repr

/-- `FRAME4_POINTS` (R6, R115, C1). -/
def frame4Points : List FramePoint :=
  [⟨0, true, true⟩, ⟨3729, true, false⟩, ⟨7456, true, true⟩, ⟨11185, true, false⟩]

/-- `FRAME5_POINTS`: the 4-step points and the quiet point at 14915 (R6, R115, D15). -/
def frame5Points : List FramePoint := frame4Points ++ [⟨14915, false, false⟩]

/-- `LFSR_SEED`: bit 14 set (R6, R34). -/
def lfsrSeed : BitVec 15 := 0x4000#15

/-- `PERIOD_MIN` (R6, R75, R90). -/
def periodMin : Nat := 8

/-- `PERIOD_MAX` (R6, R75, R90). -/
def periodMax : Nat := 0x7FF

/-- `GAIN_INIT` = 1.0 (R6, R34, D20). -/
def gainInit : F64 := 0x3FF0000000000000#64

/-- This hardware's parameters, with the implementation's chunk size (R6). -/
def params : Config.Params :=
  { chipClockHz := chipClockHz, sampleRate := sampleRate, fifoCapacity := fifoCapacity,
    chunkSamples := Config.chunkSamples }

/-- The legal parameters (R127, R133): an even capacity of at least 2, a chunk of at least one sample that
fits the buffer, and a clock and a sample rate that are not 0. -/
def paramsLegal (p : Config.Params) : Bool :=
  p.fifoCapacity % 2 == 0 && decide (2 ≤ p.fifoCapacity) && decide (1 ≤ p.chunkSamples)
    && decide (2 * p.chunkSamples ≤ p.fifoCapacity) && decide (p.chipClockHz ≠ 0) && decide (p.sampleRate ≠ 0)

/-- Construction: illegal parameters are rejected, and no machine results (R133). -/
def constructParams (p : Config.Params) : Option Config.Params :=
  if paramsLegal p then some p else none

end Sys2Proof.Machine
end

