-- ==== Sys2Proof/Syntax.lean ====
section
/-! DEFINITION. The syntax: one constructor for each row of spec/opcode_table.json (R58), the command that carries one
in the agents' stream (R50, R54), and the assembler's pseudo-instructions (R61, R62). -/

namespace Sys2Proof

/-- A command as an agent issues it: the 16-bit word (R50) and the 64 bits that travel beside it, which only
SETGAIN reads (R54; log 9). -/
structure Command where
  /-- The command word. -/
  word : CmdWord
  /-- The operand beside the word; 0 where the command has none. -/
  operand : F64 := 0#64
deriving DecidableEq, Repr

/-- The commands (R58). `wXXXX d` is `W $XXXX, #d`; each address is its own command because each
address has its own action. -/
inductive Instr where
  | w4000 (d : Byte)
  | w4001 (d : Byte)
  | w4002 (d : Byte)
  | w4003 (d : Byte)
  | w4004 (d : Byte)
  | w4005 (d : Byte)
  | w4006 (d : Byte)
  | w4007 (d : Byte)
  | w4008 (d : Byte)
  | w4009 (d : Byte)
  | w400A (d : Byte)
  | w400B (d : Byte)
  | w400C (d : Byte)
  | w400D (d : Byte)
  | w400E (d : Byte)
  | w400F (d : Byte)
  | w4010 (d : Byte)
  | w4011 (d : Byte)
  | w4012 (d : Byte)
  | w4013 (d : Byte)
  | w4014 (d : Byte)
  | w4015 (d : Byte)
  | w4016 (d : Byte)
  | w4017 (d : Byte)
  | w4018 (d : Byte)
  | w4019 (d : Byte)
  | w401A (d : Byte)
  | w401B (d : Byte)
  | w401C (d : Byte)
  | w401D (d : Byte)
  | w401E (d : Byte)
  | w401F (d : Byte)
  /-- `WF addr, bit, val` (R52, R111). -/
  | writeFlag (addr : RegIndex) (bit : BitVec 3) (val : Bool)
  /-- `R addr` (R53, R112). -/
  | read (addr : RegIndex)
  /-- One core tick (R119). -/
  | tick
  /-- Removal of one chunk (R125). -/
  | pop
  /-- `GAIN g`, the operand beside the word (R113). -/
  | setGain (g : F64)
deriving DecidableEq, Repr

/-- A pulse channel id: a value of a two-element type, so that an id outside 0 and 1 cannot be written
(R24, R133). -/
inductive PulseId where
  | p0
  | p1
deriving DecidableEq, Repr

/-- A non-negative rational operand of a note pseudo-instruction, `num / den` (R62; log 10). -/
structure Ratio where
  /-- Numerator. -/
  num : Nat
  /-- Denominator, which must not be 0. -/
  den : Nat
deriving DecidableEq, Repr

/-- A note's duration (R62): a time in milliseconds, or -1, "hold indefinitely via halt flag". -/
inductive Duration where
  | ms (t : Ratio)
  | hold
deriving DecidableEq, Repr

/-- The pseudo-instructions of R61 and R62, with their operands as the assembler reads them. -/
inductive Pseudo where
  /-- `TICK n`. -/
  | tickN (n : Nat)
  /-- `ENABLE #d`. -/
  | enable (d : Nat)
  /-- `PERIOD.P k, p, L`. -/
  | periodP (k p l : Nat)
  /-- `NOTE.P k, f, ms, c, v, d`. -/
  | noteP (k : Nat) (f : Ratio) (t : Duration) (c : Bool) (v d : Nat)
  /-- `NOTE.T f, ms`. -/
  | noteT (f : Ratio) (t : Duration)
deriving DecidableEq, Repr

end Sys2Proof
end

