-- ==== Sys2Proof/Machine/State.lean ====
section
/-! DEFINITION. The state of the block as plain data (10_state.md), its reset value (R34), and the reasons a step can stop. -/

namespace Sys2Proof.Machine

/-- A Divider (R18): a down-counter with a reload period; `loop` is fixed per use. -/
structure Divider where
  /-- The reload period. -/
  period : Nat
  /-- The current count. -/
  count : Nat
  /-- Whether the divider reloads when it fires. -/
  loop : Bool
deriving DecidableEq, Repr

/-- A LengthCounter (R19): a non-looping divider and the flag that holds it. -/
structure LengthCounter where
  /-- The wrapped divider, `loop = false`. -/
  div : Divider
  /-- While set, the counter does not count. -/
  halt : Bool
deriving DecidableEq, Repr

/-- An Envelope (R20). -/
structure Envelope where
  /-- The internal divider, `loop = true`. -/
  div : Divider
  /-- A load happened and the next clock is the first after it. -/
  start : Bool
  /-- Selects the constant mode. -/
  constant : Bool
  /-- Selects looping back to 15. -/
  loop : Bool
  /-- The programmed 4-bit value. -/
  volume : BitVec 4
  /-- The decaying level. -/
  decay : BitVec 4
deriving DecidableEq, Repr

/-- A Sweep (R21). -/
structure Sweep where
  /-- The sweep divider, `loop = true`; its period is the sweep period. -/
  div : Divider
  /-- Whether the sweep acts at all. -/
  enabled : Bool
  /-- The sign of the adjustment. -/
  negate : Bool
  /-- The shift of the adjustment. -/
  shift : BitVec 3
deriving DecidableEq, Repr

/-- The noise shift register (R22). -/
structure Lfsr where
  /-- The 15-bit shift register. -/
  shift : BitVec 15
  /-- True selects the short period. -/
  mode : Bool
deriving DecidableEq, Repr

/-- A Sequencer (R23): a cyclic index into a fixed table. -/
structure Sequencer where
  /-- The index, below the table's length. -/
  index : Nat
deriving DecidableEq, Repr

/-- A pulse channel (R24). -/
structure Pulse where
  /-- The channel's enable flag. -/
  enabled : Bool
  /-- The duty row. -/
  duty : BitVec 2
  /-- The raw period, 11 bits: its bound 0x7FF is an invariant that R134 checks (log 8). -/
  raw : Nat
  /-- The timer divider. -/
  timer : Divider
  /-- The length counter. -/
  len : LengthCounter
  /-- The envelope. -/
  env : Envelope
  /-- The sweep. -/
  sweep : Sweep
  /-- The duty sequencer, index below 8. -/
  seq : Sequencer
deriving DecidableEq, Repr

/-- The triangle channel (R25). -/
structure Triangle where
  /-- The channel's enable flag. -/
  enabled : Bool
  /-- The raw period, 11 bits (bound checked by R134, log 8). -/
  raw : Nat
  /-- The timer divider. -/
  timer : Divider
  /-- The length counter. -/
  len : LengthCounter
  /-- The linear counter. -/
  lin : LengthCounter
  /-- The sequencer, index below 32. -/
  seq : Sequencer
deriving DecidableEq, Repr

/-- The noise channel (R26). -/
structure Noise where
  /-- The channel's enable flag. -/
  enabled : Bool
  /-- The noise period index. -/
  pidx : BitVec 4
  /-- The timer divider. -/
  timer : Divider
  /-- The length counter. -/
  len : LengthCounter
  /-- The envelope. -/
  env : Envelope
  /-- The shift register. -/
  lfsr : Lfsr
deriving DecidableEq, Repr

/-- The ring buffer (R30). `buf` lists the bytes that are not 0x00, in rising order of offset: an unlisted offset
reads 0x00, which is its reset value (R34; log 6). -/
structure Fifo where
  /-- The 192000 bytes of the buffer, sparse. -/
  buf : List Host.Cell
  /-- The write head, an offset. -/
  wHead : Nat
  /-- The read head, an offset. -/
  rHead : Nat
  /-- The number of written, unread bytes. -/
  fill : Nat
  /-- The write-lock flag, false between steps (R123, R129). -/
  wlock : Bool
deriving DecidableEq, Repr

/-- A recorded refusal: the reason and the recorded value (R131). -/
inductive RefusalRecord where
  /-- Code 1: the word that matches no row of the opcode table. -/
  | undecodableWord (w : CmdWord)
  /-- Code 2: the 64 bits of SETGAIN's NaN or infinite operand. -/
  | nonFiniteGain (g : F64)
deriving DecidableEq, Repr

/-- The bookkeeping marks (R33), and the reasons recorded with the refusals (R131; log 4). -/
structure Marks where
  /-- Set when a command is refused, never cleared. -/
  refused : Bool
  /-- Set when a rule reaches a case with no meaning, never cleared. -/
  fault : Bool
  /-- The recorded reasons, oldest first. -/
  refusals : List RefusalRecord
deriving DecidableEq, Repr

/-- The state: the tuple of R13, and after it the model's own fields for its outside interface: the agents' commands
(log 1) and what READ and POP have returned (log 3). -/
structure State where
  /-- The register file (R14). -/
  reg : Vector Byte 32
  /-- Pulse channel 0 (R24). -/
  p0 : Pulse
  /-- Pulse channel 1 (R24). -/
  p1 : Pulse
  /-- The triangle channel (R25). -/
  tri : Triangle
  /-- The noise channel (R26). -/
  noise : Noise
  /-- The frame counter (R27). -/
  fc : Nat
  /-- The sample accumulator (R28). -/
  acc : Nat
  /-- The gain multiplier, a finite binary64 value (R29). -/
  gain : F64
  /-- The ring buffer (R30). -/
  fifo : Fifo
  /-- The marks (R33). -/
  marks : Marks
  /-- MODEL: the commands the agents attempt, in their one total order, the next one first (R17, R43; log 1). -/
  stream : List Command
  /-- MODEL: the bytes READ has returned to the host, oldest first (R112, R143; log 3). -/
  reads : List Byte
  /-- MODEL: the chunks POP has returned to the consumer, oldest first (R125, R143; log 3). -/
  chunks : List (List Sample)
deriving DecidableEq, Repr

/-- Why the machine stops. -/
inductive Fault where
  /-- Raised by `step` when `marks.fault` is already set and an agent still has a command: "after a fault a model may
  take no further step" (R134). Safe: nothing is claimed of a machine that has stopped. -/
  | stopped
deriving DecidableEq, Repr

/-- Why a command has no meaning. The refusals of R131 are not among these: they are next states with their marks set. -/
inductive Refusal where
  /-- Raised by an arm of `exec` that has no meaning yet. No arm of this model raises it. Safe. -/
  | notModelled (mnemonic : String)
deriving DecidableEq, Repr

/-- A divider at reset: period and count 0 (R34). -/
def Divider.reset (loop : Bool) : Divider := ⟨0, 0, loop⟩

/-- A length or linear counter at reset (R34). -/
def LengthCounter.reset : LengthCounter := ⟨Divider.reset false, false⟩

/-- An envelope at reset (R34). -/
def Envelope.reset : Envelope := ⟨Divider.reset true, false, false, false, 0#4, 0#4⟩

/-- A sweep at reset (R34). -/
def Sweep.reset : Sweep := ⟨Divider.reset true, false, false, 0#3⟩

/-- A pulse channel at reset (R34). -/
def Pulse.reset : Pulse :=
  ⟨false, 0#2, 0, Divider.reset true, LengthCounter.reset, Envelope.reset, Sweep.reset, ⟨0⟩⟩

/-- The triangle channel at reset (R34). -/
def Triangle.reset : Triangle :=
  ⟨false, 0, Divider.reset true, LengthCounter.reset, LengthCounter.reset, ⟨0⟩⟩

/-- The noise channel at reset: all zero but the LFSR, which holds its seed (R34). -/
def Noise.reset : Noise :=
  ⟨false, 0#4, Divider.reset true, LengthCounter.reset, Envelope.reset, ⟨lfsrSeed, false⟩⟩

/-- The ring buffer at reset: every byte 0x00, empty (R34). -/
def Fifo.reset : Fifo := ⟨[], 0, 0, 0, false⟩

/-- The machine right after reset (R34, R145, R146), with no command pending and nothing returned (log 1, log 3). -/
def State.reset : State where
  reg := Vector.replicate 32 0x00#8
  p0 := Pulse.reset
  p1 := Pulse.reset
  tri := Triangle.reset
  noise := Noise.reset
  fc := 0
  acc := 0
  gain := gainInit
  fifo := Fifo.reset
  marks := ⟨false, false, []⟩
  stream := []
  reads := []
  chunks := []

end Sys2Proof.Machine
end

