-- ==== Sys2Proof/Machine/Ops.lean ====
section
/-! DEFINITION. The named operations over the register file, the ring-buffer bytes and the marks (R8, R36, R131, R134).
The block takes no exceptions (R136); refusing a command and marking a fault are what stands in their place. -/

namespace Sys2Proof.Machine

/-- `reg[i]` (R8): reads the register array, never dispatches. -/
def State.getReg (s : State) (i : RegIndex) : Byte := s.reg.get i.toFin

/-- `reg[i] <- v` (R8): writes the register array, never dispatches. -/
def State.setReg (s : State) (i : RegIndex) (v : Byte) : State :=
  { s with reg := s.reg.set i.toFin v i.toFin.isLt }

/-- `P[k]` (R10, R24). -/
def State.pulse (s : State) : PulseId → Pulse
  | .p0 => s.p0
  | .p1 => s.p1

/-- `P[k] <- p` (R10, R24). -/
def State.setPulse (s : State) (k : PulseId) (p : Pulse) : State :=
  match k with
  | .p0 => { s with p0 := p }
  | .p1 => { s with p1 := p }

/-- What an unlisted offset of the ring buffer reads as: 0x00, the reset value of every byte (R34; log 6). -/
def unlistedByte : Byte := 0x00#8

/-- The byte stored at an offset. -/
def cellsRead : List Host.Cell → Nat → Byte
  | [], _ => unlistedByte
  | (b, v) :: rest, a => if a = b then v else cellsRead rest a

/-- Stores a byte at an offset and keeps the canonical form: offsets strictly rising, no entry equal to what an
unlisted offset reads as. -/
def cellsWrite : List Host.Cell → Nat → Byte → List Host.Cell
  | [], a, v => if v = unlistedByte then [] else [(a, v)]
  | (b, w) :: rest, a, v =>
    if a < b then (if v = unlistedByte then (b, w) :: rest else (a, v) :: (b, w) :: rest)
    else if a = b then (if v = unlistedByte then rest else (a, v) :: rest)
    else (b, w) :: cellsWrite rest a v

/-- The offset `a`, taken mod `FIFO_CAPACITY` (R8, R35). -/
def fifoOffset (a : Nat) : Nat := a % fifoCapacity

/-- One byte of the ring buffer. -/
def Fifo.readByte (f : Fifo) (a : Nat) : Byte := cellsRead f.buf (fifoOffset a)

/-- Stores one byte of the ring buffer. -/
def Fifo.writeByte (f : Fifo) (a : Nat) (v : Byte) : Fifo := { f with buf := cellsWrite f.buf (fifoOffset a) v }

/-- `MemRead(a, n)` (R8): `n` bytes from offset `a` on, each offset mod `FIFO_CAPACITY`, little-endian. -/
def Fifo.memRead (f : Fifo) (a : Nat) : Nat → Nat
  | 0 => 0
  | n + 1 => (f.readByte a).toNat + 256 * Fifo.memRead f (a + 1) n

/-- `MemWrite(a, n, v)` (R8): stores `n` bytes of `v` from offset `a` on, little-endian. -/
def Fifo.memWrite (f : Fifo) (a : Nat) : Nat → Nat → Fifo
  | 0, _ => f
  | n + 1, v => Fifo.memWrite (f.writeByte a (BitVec.ofNat 8 v)) (a + 1) n (v / 256)

/-- The sample stored at offset `a`, low byte first (R36). -/
def Fifo.readSample (f : Fifo) (a : Nat) : Sample := BitVec.ofNat 16 (f.memRead a 2)

/-- The canonical form of the ring-buffer bytes: offsets strictly rising and below the capacity, no listed 0x00. -/
abbrev cellsWf (m : List Host.Cell) : Prop :=
  m.Pairwise (fun x y => x.1 < y.1) ∧ ∀ c ∈ m, c.1 < fifoCapacity ∧ c.2 ≠ unlistedByte

/-- Refusing a command (R131): the state other than `marks` is unchanged, `marks.refused` is set and the reason is
recorded (log 4). -/
def State.refuse (s : State) (r : RefusalRecord) : State :=
  { s with marks := { s.marks with refused := true, refusals := s.marks.refusals ++ [r] } }

/-- A faulting step (R134): `marks.fault` is set and nothing else changes. -/
def State.markFault (s : State) : State := { s with marks := { s.marks with fault := true } }

end Sys2Proof.Machine
end

