-- ==== Sys2Proof/Machine/Operands.lean ====
section
/-! DEFINITION. The operand forms: the fields of a register byte (R15, R57), the bytes of a channel (R9), and the assembly of a
raw period from two stored bytes (R56). -/

namespace Sys2Proof.Machine

/-- DUTY, bits 7 to 6 of $4000 and $4004. -/
def fDuty (d : Byte) : BitVec 2 := d.extractLsb' 6 2

/-- HALT, bit 5 of $4000, $4004 and $400C: length halt and envelope loop. -/
def fHalt (d : Byte) : Bool := d.getLsbD 5

/-- CONST, bit 4 of $4000, $4004 and $400C. -/
def fConst (d : Byte) : Bool := d.getLsbD 4

/-- VOL, bits 3 to 0 of $4000, $4004 and $400C: constant volume and envelope period. -/
def fVol (d : Byte) : BitVec 4 := d.extractLsb' 0 4

/-- SW_EN, bit 7 of $4001 and $4005. -/
def fSweepEnable (d : Byte) : Bool := d.getLsbD 7

/-- SW_PERIOD, bits 6 to 4 of $4001 and $4005. -/
def fSweepPeriod (d : Byte) : BitVec 3 := d.extractLsb' 4 3

/-- SW_NEG, bit 3 of $4001 and $4005. -/
def fSweepNegate (d : Byte) : Bool := d.getLsbD 3

/-- SW_SHIFT, bits 2 to 0 of $4001 and $4005. -/
def fSweepShift (d : Byte) : BitVec 3 := d.extractLsb' 0 3

/-- TIMER_HI, bits 2 to 0 of $4003, $4007 and $400B. -/
def fTimerHi (d : Byte) : BitVec 3 := d.extractLsb' 0 3

/-- LEN_IDX, bits 7 to 3 of $4003, $4007, $400B and $400F. -/
def fLenIdx (d : Byte) : BitVec 5 := d.extractLsb' 3 5

/-- T_CTRL, bit 7 of $4008. -/
def fTriCtrl (d : Byte) : Bool := d.getLsbD 7

/-- LIN_RELOAD, bits 6 to 0 of $4008. -/
def fLinReload (d : Byte) : BitVec 7 := d.extractLsb' 0 7

/-- N_MODE, bit 7 of $400E. -/
def fNoiseMode (d : Byte) : Bool := d.getLsbD 7

/-- N_PIDX, bits 3 to 0 of $400E. -/
def fNoiseIdx (d : Byte) : BitVec 4 := d.extractLsb' 0 4

/-- FMODE, bit 7 of $4017. -/
def fFrameMode (d : Byte) : Bool := d.getLsbD 7

/-- EN_P0 and EN_P1, bits 0 and 1 of $4015. -/
def fEnablePulse (k : PulseId) (d : Byte) : Bool :=
  match k with
  | .p0 => d.getLsbD 0
  | .p1 => d.getLsbD 1

/-- EN_T, bit 2 of $4015. -/
def fEnableTri (d : Byte) : Bool := d.getLsbD 2

/-- EN_N, bit 3 of $4015. -/
def fEnableNoise (d : Byte) : Bool := d.getLsbD 3

/-- The control register of pulse channel k: $4000 or $4004. -/
def pulseCtrlIdx : PulseId → RegIndex
  | .p0 => 0x00#5
  | .p1 => 0x04#5

/-- The sweep register of pulse channel k: $4001 or $4005. -/
def pulseSweepIdx : PulseId → RegIndex
  | .p0 => 0x01#5
  | .p1 => 0x05#5

/-- The period low register of pulse channel k: $4002 or $4006. -/
def pulseLoIdx : PulseId → RegIndex
  | .p0 => 0x02#5
  | .p1 => 0x06#5

/-- The period high and length register of pulse channel k: $4003 or $4007. -/
def pulseHiIdx : PulseId → RegIndex
  | .p0 => 0x03#5
  | .p1 => 0x07#5

/-- A raw period from its two bytes, `{hi[2:0], lo[7:0]}` (R56). -/
def assemblePeriod (hi lo : Byte) : Nat := (fTimerHi hi ++ lo).toNat

/-- The raw period that pulse channel k's two stored bytes assemble (R56). -/
def State.pulsePeriod (s : State) (k : PulseId) : Nat :=
  assemblePeriod (s.getReg (pulseHiIdx k)) (s.getReg (pulseLoIdx k))

/-- The raw period that the triangle's two stored bytes assemble (R56). -/
def State.triPeriod (s : State) : Nat := assemblePeriod (s.getReg 0x0B#5) (s.getReg 0x0A#5)

/-- The byte that WRITEFLAG writes: `(b AND NOT (1 << BIT)) OR (VAL << BIT)` (R111). -/
def flagByte (b : Byte) (bit : BitVec 3) (val : Bool) : Byte :=
  (b &&& ~~~(1#8 <<< bit.toNat)) ||| ((BitVec.ofBool val).setWidth 8 <<< bit.toNat)

end Sys2Proof.Machine
end

