-- ==== Sys2Proof/Machine/Tables.lean ====
section
/-! DEFINITION. The fixed tables at this hardware's values (R79 to R82). -/

namespace Sys2Proof.Machine

/-- `LENGTH_TABLE`, in half-frame clocks (R79, D13). -/
def lengthTable : Vector Nat 32 :=
  #v[10, 254, 20, 2, 40, 4, 80, 6, 160, 8, 60, 10, 14, 12, 26, 14,
     12, 16, 24, 18, 48, 20, 96, 22, 192, 24, 72, 26, 16, 28, 32, 30]

/-- The table value of a 5-bit length code (R67, R79). -/
def lengthOf (code : BitVec 5) : Nat := lengthTable.get code.toFin

/-- `NOISE_PERIOD_TABLE`, in core ticks (R80, D12). -/
def noisePeriodTable : Vector Nat 16 :=
  #v[4, 8, 16, 32, 64, 96, 128, 160, 202, 254, 380, 508, 762, 1016, 2034, 4068]

/-- The timer period of a 4-bit noise period index (R80, R100). -/
def noisePeriodOf (i : BitVec 4) : Nat := noisePeriodTable.get i.toFin

/-- `DUTY_TABLE`: a row per duty, a column per sequencer index (R81, D14). -/
def dutyTable : Vector (Vector Bool 8) 4 :=
  #v[#v[false, true, false, false, false, false, false, false],
     #v[false, true, true, false, false, false, false, false],
     #v[false, true, true, true, true, false, false, false],
     #v[true, false, false, true, true, true, true, true]]

/-- The duty row of a 2-bit duty (R23, R81). -/
def dutyRow (d : BitVec 2) : Vector Bool 8 := dutyTable.get d.toFin

/-- `TRIANGLE_TABLE`: 15 down to 0, then 0 up to 15 (R82). -/
def triangleTable : Vector (BitVec 4) 32 :=
  #v[15, 14, 13, 12, 11, 10, 9, 8, 7, 6, 5, 4, 3, 2, 1, 0,
     0, 1, 2, 3, 4, 5, 6, 7, 8, 9, 10, 11, 12, 13, 14, 15]

end Sys2Proof.Machine
end

