-- ==== Sys2Proof/Machine/Primitives.lean ====
section
/-! DEFINITION. The six primitives (40_primitives.md): Divider, LengthCounter, Envelope, Sweep, LFSR, Sequencer. A clock answers
the new record and its result. -/

namespace Sys2Proof.Machine

/-- `Divider.clock` (R63): at 0 it fires and reloads if looping, otherwise it counts down. -/
def Divider.clock (d : Divider) : Divider × Bool :=
  if d.count = 0 then (if d.loop then { d with count := d.period } else d, true)
  else ({ d with count := d.count - 1 }, false)

/-- `Divider.load` (R64). -/
def Divider.load (d : Divider) (p : Nat) : Divider := { d with period := p, count := p }

/-- `Divider.setPeriod` (R65): the count is unchanged. -/
def Divider.setPeriod (d : Divider) (p : Nat) : Divider := { d with period := p }

/-- `LengthCounter.clock` (R66): the result says whether this call took the count from 1 to 0. -/
def LengthCounter.clock (lc : LengthCounter) : LengthCounter × Bool :=
  if lc.halt then (lc, false) else ({ lc with div := lc.div.clock.1 }, lc.div.count == 1)

/-- `LengthCounter.load` (R67): through the length table; `halt` is not changed. -/
def LengthCounter.load (lc : LengthCounter) (code : BitVec 5) : LengthCounter :=
  { lc with div := lc.div.load (lengthOf code) }

/-- `LengthCounter.loadDirect` (R68): no table. -/
def LengthCounter.loadDirect (lc : LengthCounter) (n : Nat) : LengthCounter := { lc with div := lc.div.load n }

/-- `exhausted` (R69). -/
def LengthCounter.exhausted (lc : LengthCounter) : Bool := lc.div.count == 0

/-- `Envelope.load` (R70): the divider's count and the decay level stay until the next clock. -/
def Envelope.load (e : Envelope) (v : BitVec 4) (c l : Bool) : Envelope :=
  { e with volume := v, div := e.div.setPeriod v.toNat, constant := c, loop := l, start := true }

/-- The decay level after the envelope divider fires (R71). -/
def Envelope.decayed (e : Envelope) : BitVec 4 :=
  if e.decay ≠ 0#4 then e.decay - 1#4 else if e.loop then 15#4 else e.decay

/-- `Envelope.clock` (R71). -/
def Envelope.clock (e : Envelope) : Envelope :=
  if e.start then { e with start := false, decay := 15#4, div := { e.div with count := e.div.period } }
  else { e with div := e.div.clock.1, decay := if e.div.clock.2 then e.decayed else e.decay }

/-- `Envelope.out` (R72). -/
def Envelope.out (e : Envelope) : BitVec 4 := if e.constant then e.volume else e.decay

/-- `Sweep.load` (R73). -/
def Sweep.load (s : Sweep) (en : Bool) (p : BitVec 3) (neg : Bool) (sh : BitVec 3) : Sweep :=
  { s with enabled := en, div := s.div.load p.toNat, negate := neg, shift := sh }

/-- Whether pulse id `k` is `SWEEP_EXTRA_ONE_ID`, the second pulse channel (R6, R74, D24). -/
def sweepExtraOne : PulseId → Bool
  | .p0 => false
  | .p1 => true

/-- `sweepTarget` (R74). -/
def sweepTarget (k : PulseId) (raw : Nat) (s : Sweep) : Int :=
  let delta := raw >>> s.shift.toNat
  if s.negate then (raw : Int) - (delta : Int) - (if sweepExtraOne k then 1 else 0)
  else (raw : Int) + (delta : Int)

/-- The outcome of a sweep clock (R75). -/
inductive SweepOutcome where
  /-- Nothing to apply. -/
  | none
  /-- The raw period becomes `t`. -/
  | set (t : Nat)
  /-- The channel is disabled. -/
  | mute
deriving DecidableEq, Repr

/-- The outcome when the sweep divider fires (R75). -/
def sweepAdjust (k : PulseId) (raw : Nat) (s : Sweep) : SweepOutcome :=
  let t := sweepTarget k raw s
  if t < (periodMin : Int) ∨ (periodMax : Int) < t then .mute else .set t.toNat

/-- `Sweep.clock` (R75): a disabled sweep leaves its divider alone. -/
def Sweep.clock (k : PulseId) (raw : Nat) (s : Sweep) : Sweep × SweepOutcome :=
  if s.enabled then
    ({ s with div := s.div.clock.1 }, if s.div.clock.2 then sweepAdjust k raw s else .none)
  else (s, .none)

/-- The feedback bit: bit 0 XOR bit 6 in short mode, bit 1 in long mode (R76). -/
def Lfsr.feedback (r : Lfsr) : Bool :=
  r.shift.getLsbD 0 ^^ (if r.mode then r.shift.getLsbD 6 else r.shift.getLsbD 1)

/-- `LFSR.clock` (R76): shift right by one, feedback into bit 14. -/
def Lfsr.clock (r : Lfsr) : Lfsr :=
  { r with shift := (r.shift >>> 1) ||| ((BitVec.ofBool r.feedback).setWidth 15 <<< 14) }

/-- `LFSR.gate` (R77): a zero bit 0 sounds. -/
def Lfsr.gate (r : Lfsr) : Bool := r.shift.getLsbD 0 == false

/-- The current value of a sequencer over its table (R78); the default stands for no entry of a table. -/
def Sequencer.value {α : Type} [Inhabited α] {n : Nat} (q : Sequencer) (table : Vector α n) : α :=
  table[q.index]?.getD default

/-- `Sequencer.clock` (R78): advances the index mod the table's length and answers the new current value. -/
def Sequencer.clock {α : Type} [Inhabited α] {n : Nat} (q : Sequencer) (table : Vector α n) : Sequencer × α :=
  (⟨(q.index + 1) % n⟩, Sequencer.value ⟨(q.index + 1) % n⟩ table)

end Sys2Proof.Machine
end

