-- ==== Sys2Proof/Machine/Noise.lean ====
section
/-! DEFINITION. The noise channel (43_noise.md): the register-write actions R99 to R101, the channel clocks R102 to R104 and the output
R105; and the meanings of W $400C, W $400E and W $400F. -/

namespace Sys2Proof.Machine

/-- The noise control action (R99). -/
def Noise.control (n : Noise) (d : Byte) : Noise :=
  { n with len := { n.len with halt := fHalt d }, env := n.env.load (fVol d) (fConst d) (fHalt d) }

/-- The period and mode action (R100): the shift register keeps its bits. -/
def Noise.periodWrite (n : Noise) (d : Byte) : Noise :=
  { n with pidx := fNoiseIdx d, lfsr := { n.lfsr with mode := fNoiseMode d },
           timer := n.timer.load (noisePeriodOf (fNoiseIdx d)) }

/-- The length code action (R101). -/
def Noise.loadLength (n : Noise) (d : Byte) : Noise := { n with len := n.len.load (fLenIdx d) }

/-- W $400C (R99). -/
def writeNoiseControl (d : Byte) (s : State) : State := { s.setReg 0x0C#5 d with noise := s.noise.control d }

/-- W $400E (R100). -/
def writeNoisePeriod (d : Byte) (s : State) : State := { s.setReg 0x0E#5 d with noise := s.noise.periodWrite d }

/-- W $400F (R101). -/
def writeNoiseLength (d : Byte) (s : State) : State := { s.setReg 0x0F#5 d with noise := s.noise.loadLength d }

/-- `Noise.clock` (R102, C6): the timer, and on its fire the LFSR. -/
def Noise.clock (n : Noise) : Noise :=
  { n with timer := n.timer.clock.1, lfsr := if n.timer.clock.2 then n.lfsr.clock else n.lfsr }

/-- `Noise.quarter` (R103). -/
def Noise.quarter (n : Noise) : Noise := { n with env := n.env.clock }

/-- `Noise.half` (R104). -/
def Noise.half (n : Noise) : Noise := { n with len := n.len.clock.1 }

/-- `Noise.get` (R105). -/
def Noise.get (n : Noise) : BitVec 4 :=
  if !n.enabled then 0#4
  else if n.len.exhausted then 0#4
  else if !n.lfsr.gate then 0#4
  else n.env.out

/-- W $400C (R99). -/
def execW400C (d : Byte) (s : State) : Host.Outcome State Fault Refusal := .next (writeNoiseControl d s)

/-- W $400E (R100). -/
def execW400E (d : Byte) (s : State) : Host.Outcome State Fault Refusal := .next (writeNoisePeriod d s)

/-- W $400F (R101). -/
def execW400F (d : Byte) (s : State) : Host.Outcome State Fault Refusal := .next (writeNoiseLength d s)

end Sys2Proof.Machine
end

