-- ==== Sys2Proof/Machine/Pulse.lean ====
section
/-! DEFINITION. The pulse channels (41_pulse.md): the register-write actions R83 to R86, the channel clocks R87 to R89 and the output
R90; and the meanings of W $4000 to W $4007. -/

namespace Sys2Proof.Machine

/-- The pulse control action (R83). -/
def Pulse.control (p : Pulse) (d : Byte) : Pulse :=
  { p with duty := fDuty d, len := { p.len with halt := fHalt d },
           env := p.env.load (fVol d) (fConst d) (fHalt d) }

/-- The pulse sweep action (R84). -/
def Pulse.sweepWrite (p : Pulse) (d : Byte) : Pulse :=
  { p with sweep := p.sweep.load (fSweepEnable d) (fSweepPeriod d) (fSweepNegate d) (fSweepShift d) }

/-- A new raw period: the timer divider restarts at it (R85, R86). -/
def Pulse.loadPeriod (p : Pulse) (raw : Nat) : Pulse := { p with raw := raw, timer := p.timer.load raw }

/-- A length code (R86). -/
def Pulse.loadLength (p : Pulse) (d : Byte) : Pulse := { p with len := p.len.load (fLenIdx d) }

/-- W $4000 / W $4004 for channel k (R83). -/
def writePulseControl (k : PulseId) (d : Byte) (s : State) : State :=
  (s.setReg (pulseCtrlIdx k) d).setPulse k ((s.pulse k).control d)

/-- W $4001 / W $4005 for channel k (R84). -/
def writePulseSweep (k : PulseId) (d : Byte) (s : State) : State :=
  (s.setReg (pulseSweepIdx k) d).setPulse k ((s.pulse k).sweepWrite d)

/-- W $4002 / W $4006 for channel k (R85): the period is assembled after the byte is stored. -/
def writePulseLow (k : PulseId) (d : Byte) (s : State) : State :=
  let s' := s.setReg (pulseLoIdx k) d
  s'.setPulse k ((s.pulse k).loadPeriod (s'.pulsePeriod k))

/-- W $4003 / W $4007 for channel k (R86). -/
def writePulseHigh (k : PulseId) (d : Byte) (s : State) : State :=
  let s' := s.setReg (pulseHiIdx k) d
  s'.setPulse k (((s.pulse k).loadPeriod (s'.pulsePeriod k)).loadLength d)

/-- `Pulse.clock` (R87): the timer, and on its fire the duty sequencer. -/
def Pulse.clock (p : Pulse) : Pulse :=
  { p with timer := p.timer.clock.1,
           seq := if p.timer.clock.2 then (p.seq.clock (dutyRow p.duty)).1 else p.seq }

/-- `Pulse.quarter` (R88). -/
def Pulse.quarter (p : Pulse) : Pulse := { p with env := p.env.clock }

/-- The caller's part of a sweep clock (R89). -/
def Pulse.applySweep (p : Pulse) : SweepOutcome → Pulse
  | .none => p
  | .set t => { p with raw := t, timer := p.timer.setPeriod t }
  | .mute => { p with enabled := false }

/-- `Pulse.half` (R89): the length counter, and one clock of the sweep. -/
def Pulse.half (k : PulseId) (p : Pulse) : Pulse :=
  let w := p.sweep.clock k p.raw
  Pulse.applySweep { p with len := p.len.clock.1, sweep := w.1 } w.2

/-- `Pulse.get` (R90). -/
def Pulse.get (p : Pulse) : BitVec 4 :=
  if !p.enabled then 0#4
  else if p.len.exhausted then 0#4
  else if p.raw < periodMin ∨ periodMax < p.raw then 0#4
  else if !(p.seq.value (dutyRow p.duty)) then 0#4
  else p.env.out

/-- W $4000 (R83, k = 0). -/
def execW4000 (d : Byte) (s : State) : Host.Outcome State Fault Refusal := .next (writePulseControl .p0 d s)

/-- W $4001 (R84, k = 0). -/
def execW4001 (d : Byte) (s : State) : Host.Outcome State Fault Refusal := .next (writePulseSweep .p0 d s)

/-- W $4002 (R85, k = 0). -/
def execW4002 (d : Byte) (s : State) : Host.Outcome State Fault Refusal := .next (writePulseLow .p0 d s)

/-- W $4003 (R86, k = 0). -/
def execW4003 (d : Byte) (s : State) : Host.Outcome State Fault Refusal := .next (writePulseHigh .p0 d s)

/-- W $4004 (R83, k = 1). -/
def execW4004 (d : Byte) (s : State) : Host.Outcome State Fault Refusal := .next (writePulseControl .p1 d s)

/-- W $4005 (R84, k = 1). -/
def execW4005 (d : Byte) (s : State) : Host.Outcome State Fault Refusal := .next (writePulseSweep .p1 d s)

/-- W $4006 (R85, k = 1). -/
def execW4006 (d : Byte) (s : State) : Host.Outcome State Fault Refusal := .next (writePulseLow .p1 d s)

/-- W $4007 (R86, k = 1). -/
def execW4007 (d : Byte) (s : State) : Host.Outcome State Fault Refusal := .next (writePulseHigh .p1 d s)

end Sys2Proof.Machine
end

