-- ==== Sys2Proof/Machine/Triangle.lean ====
section
/-! DEFINITION. The triangle channel (42_triangle.md): the register-write actions R91 to R94, the channel clocks R95 to R97 and the
output R98; and the meanings of W $4008, W $400A and W $400B. -/

namespace Sys2Proof.Machine

/-- The linear-counter control action (R91): both halts, and the direct load. -/
def Triangle.control (t : Triangle) (d : Byte) : Triangle :=
  { t with len := { t.len with halt := fTriCtrl d },
           lin := LengthCounter.loadDirect { t.lin with halt := fTriCtrl d } (fLinReload d).toNat }

/-- A new raw period: the timer divider restarts at it (R92, R93). -/
def Triangle.loadPeriod (t : Triangle) (raw : Nat) : Triangle := { t with raw := raw, timer := t.timer.load raw }

/-- A length code and the linear counter's reload (R93, R94). -/
def Triangle.loadLength (t : Triangle) (d lin : Byte) : Triangle :=
  { t with len := t.len.load (fLenIdx d), lin := t.lin.loadDirect (fLinReload lin).toNat }

/-- W $4008 (R91). -/
def writeTriControl (d : Byte) (s : State) : State :=
  { s.setReg 0x08#5 d with tri := s.tri.control d }

/-- W $400A (R92). -/
def writeTriLow (d : Byte) (s : State) : State :=
  let s' := s.setReg 0x0A#5 d
  { s' with tri := s.tri.loadPeriod s'.triPeriod }

/-- W $400B (R93). -/
def writeTriHigh (d : Byte) (s : State) : State :=
  let s' := s.setReg 0x0B#5 d
  { s' with tri := (s.tri.loadPeriod s'.triPeriod).loadLength d (s'.getReg 0x08#5) }

/-- One clock of the triangle's timer, and on its fire of its sequencer (R95). -/
def Triangle.clockOnce (t : Triangle) : Triangle :=
  { t with timer := t.timer.clock.1,
           seq := if t.timer.clock.2 then (t.seq.clock triangleTable).1 else t.seq }

/-- `Triangle.clock` (R95): the timer is clocked twice per core tick. -/
def Triangle.clock (t : Triangle) : Triangle := t.clockOnce.clockOnce

/-- `Triangle.quarter` (R96): the linear counter. -/
def Triangle.quarter (t : Triangle) : Triangle := { t with lin := t.lin.clock.1 }

/-- `Triangle.half` (R97): the length counter. -/
def Triangle.half (t : Triangle) : Triangle := { t with len := t.len.clock.1 }

/-- `Triangle.get` (R98). -/
def Triangle.get (t : Triangle) : BitVec 4 :=
  if !t.enabled then 0#4
  else if t.len.exhausted || t.lin.exhausted then 0#4
  else t.seq.value triangleTable

/-- W $4008 (R91). -/
def execW4008 (d : Byte) (s : State) : Host.Outcome State Fault Refusal := .next (writeTriControl d s)

/-- W $400A (R92). -/
def execW400A (d : Byte) (s : State) : Host.Outcome State Fault Refusal := .next (writeTriLow d s)

/-- W $400B (R93). -/
def execW400B (d : Byte) (s : State) : Host.Outcome State Fault Refusal := .next (writeTriHigh d s)

end Sys2Proof.Machine
end

