-- ==== Sys2Proof/Machine/ChipCore.lean ====
section
/-! DEFINITION. The chip core's host commands (44_chip_core.md): W $4015, W $4017, the store-only registers, the address to action table
(R107), WRITEFLAG, READ and SETGAIN. -/

namespace Sys2Proof.Machine

/-- The channel enables (R108): all four flags follow the byte; the length counts stay. -/
def writeEnables (d : Byte) (s : State) : State :=
  { s.setReg 0x15#5 d with
    p0 := { s.p0 with enabled := fEnablePulse .p0 d }
    p1 := { s.p1 with enabled := fEnablePulse .p1 d }
    tri := { s.tri with enabled := fEnableTri d }
    noise := { s.noise with enabled := fEnableNoise d } }

/-- W $4015 (R108). -/
def execW4015 (d : Byte) (s : State) : Host.Outcome State Fault Refusal := .next (writeEnables d s)

/-- W $4017 (R109): stores the byte and does nothing else. -/
def execW4017 (d : Byte) (s : State) : Host.Outcome State Fault Refusal := .next (s.setReg 0x17#5 d)

/-- W $4009, a store-only register (R110). -/
def execW4009 (d : Byte) (s : State) : Host.Outcome State Fault Refusal := .next (s.setReg 0x09#5 d)

/-- W $400D, a store-only register (R110). -/
def execW400D (d : Byte) (s : State) : Host.Outcome State Fault Refusal := .next (s.setReg 0x0D#5 d)

/-- W $4010, a store-only register (R110). -/
def execW4010 (d : Byte) (s : State) : Host.Outcome State Fault Refusal := .next (s.setReg 0x10#5 d)

/-- W $4011, a store-only register (R110). -/
def execW4011 (d : Byte) (s : State) : Host.Outcome State Fault Refusal := .next (s.setReg 0x11#5 d)

/-- W $4012, a store-only register (R110). -/
def execW4012 (d : Byte) (s : State) : Host.Outcome State Fault Refusal := .next (s.setReg 0x12#5 d)

/-- W $4013, a store-only register (R110). -/
def execW4013 (d : Byte) (s : State) : Host.Outcome State Fault Refusal := .next (s.setReg 0x13#5 d)

/-- W $4014, a store-only register (R110). -/
def execW4014 (d : Byte) (s : State) : Host.Outcome State Fault Refusal := .next (s.setReg 0x14#5 d)

/-- W $4016, a store-only register (R110). -/
def execW4016 (d : Byte) (s : State) : Host.Outcome State Fault Refusal := .next (s.setReg 0x16#5 d)

/-- W $4018, a store-only register (R110). -/
def execW4018 (d : Byte) (s : State) : Host.Outcome State Fault Refusal := .next (s.setReg 0x18#5 d)

/-- W $4019, a store-only register (R110). -/
def execW4019 (d : Byte) (s : State) : Host.Outcome State Fault Refusal := .next (s.setReg 0x19#5 d)

/-- W $401A, a store-only register (R110). -/
def execW401A (d : Byte) (s : State) : Host.Outcome State Fault Refusal := .next (s.setReg 0x1A#5 d)

/-- W $401B, a store-only register (R110). -/
def execW401B (d : Byte) (s : State) : Host.Outcome State Fault Refusal := .next (s.setReg 0x1B#5 d)

/-- W $401C, a store-only register (R110). -/
def execW401C (d : Byte) (s : State) : Host.Outcome State Fault Refusal := .next (s.setReg 0x1C#5 d)

/-- W $401D, a store-only register (R110). -/
def execW401D (d : Byte) (s : State) : Host.Outcome State Fault Refusal := .next (s.setReg 0x1D#5 d)

/-- W $401E, a store-only register (R110). -/
def execW401E (d : Byte) (s : State) : Host.Outcome State Fault Refusal := .next (s.setReg 0x1E#5 d)

/-- W $401F, a store-only register (R110). -/
def execW401F (d : Byte) (s : State) : Host.Outcome State Fault Refusal := .next (s.setReg 0x1F#5 d)

/-- `WRITE(ADDR, DATA)` (R106): the action of the address, by the address to action table (R107). The last arm is index
0x1F, the only one left of a 5-bit index. -/
def writeDispatch (a : RegIndex) (d : Byte) (s : State) : Host.Outcome State Fault Refusal :=
  match a.toNat with
  | 0x00 => execW4000 d s
  | 0x01 => execW4001 d s
  | 0x02 => execW4002 d s
  | 0x03 => execW4003 d s
  | 0x04 => execW4004 d s
  | 0x05 => execW4005 d s
  | 0x06 => execW4006 d s
  | 0x07 => execW4007 d s
  | 0x08 => execW4008 d s
  | 0x09 => execW4009 d s
  | 0x0A => execW400A d s
  | 0x0B => execW400B d s
  | 0x0C => execW400C d s
  | 0x0D => execW400D d s
  | 0x0E => execW400E d s
  | 0x0F => execW400F d s
  | 0x10 => execW4010 d s
  | 0x11 => execW4011 d s
  | 0x12 => execW4012 d s
  | 0x13 => execW4013 d s
  | 0x14 => execW4014 d s
  | 0x15 => execW4015 d s
  | 0x16 => execW4016 d s
  | 0x17 => execW4017 d s
  | 0x18 => execW4018 d s
  | 0x19 => execW4019 d s
  | 0x1A => execW401A d s
  | 0x1B => execW401B d s
  | 0x1C => execW401C d s
  | 0x1D => execW401D d s
  | 0x1E => execW401E d s
  | _ => execW401F d s

/-- WRITEFLAG (R111, R47): one atomic read-modify-write, the write a full WRITE with its action. -/
def execWriteFlag (a : RegIndex) (bit : BitVec 3) (val : Bool) (s : State) : Host.Outcome State Fault Refusal :=
  writeDispatch a (flagByte (s.getReg a) bit val) s

/-- READ (R112): returns the stored byte to the host (log 3) and has no side effect. -/
def execRead (a : RegIndex) (s : State) : Host.Outcome State Fault Refusal :=
  .next { s with reads := s.reads ++ [s.getReg a] }

/-- SETGAIN (R113): a NaN or infinite operand is refused with code 2 (R131), any other becomes the gain. -/
def execSetGain (g : F64) (s : State) : Host.Outcome State Fault Refusal :=
  if f64IsNaN g || f64IsInf g then .next (s.refuse (.nonFiniteGain g)) else .next { s with gain := g }

end Sys2Proof.Machine
end

