-- ==== Sys2Proof/Machine/Mixer.lean ====
section
/-! DEFINITION. The four-voice mixer (R122), in binary64, every constant the value nearest its decimal literal and every operation in the
order written. -/

namespace Sys2Proof.Machine

/-- `pulse_out` of the pulse sum `ps` (R122). -/
def pulseOut (ps : Nat) : F64 :=
  if ps = 0 then f64OfNat 0
  else f64Div (f64OfRatio 9588 100) (f64Add (f64Div (f64OfNat 8128) (f64OfNat ps)) (f64OfNat 100))

/-- `tnd_out` of the triangle and noise outputs (R122). -/
def tndOut (t n : Nat) : F64 :=
  if t = 0 ∧ n = 0 then f64OfNat 0
  else
    f64Div (f64OfRatio 15979 100)
      (f64Add
        (f64Div (f64OfNat 1)
          (f64Add (f64Div (f64OfNat t) (f64OfNat 8227)) (f64Div (f64OfNat n) (f64OfNat 12241))))
        (f64OfNat 100))

/-- -1.0. -/
def f64MinusOne : F64 := f64Pack true (1023 * 2 ^ 52)

/-- The clamp of the mixed value to [-1, 1] (R122, R135). -/
def clampUnit (x : F64) : F64 :=
  let x1 := if f64Lt x f64MinusOne then f64MinusOne else x
  if f64Lt (f64OfNat 1) x1 then f64OfNat 1 else x1

/-- The mixed, amplified and clamped value (R122, C3: the gain is applied once, before the clamp). -/
def mixLevel (p0 p1 t n : BitVec 4) (gain : F64) : F64 :=
  clampUnit (f64Mul (f64Add (pulseOut (p0.toNat + p1.toNat)) (tndOut t.toNat n.toNat)) gain)

/-- `pcm`: the level times 32767.0, rounded half away from zero (R122). -/
def mixPcm (p0 p1 t n : BitVec 4) (gain : F64) : Int :=
  f64RoundAway (f64Mul (mixLevel p0 p1 t n gain) (f64OfNat 32767))

/-- `mixSample` (R122): `pcm` as a 16-bit two's-complement value. -/
def mixSample (p0 p1 t n : BitVec 4) (gain : F64) : Sample := BitVec.ofInt 16 (mixPcm p0 p1 t n gain)

end Sys2Proof.Machine
end

