-- ==== Sys2Proof/Machine/Flags.lean ====
section
/-! DEFINITION. The one-bit conditions the rules compute. The block has no condition codes (R31): these are the frame mode and events
(R114, R115), the sample due and hold conditions (R119, R120, R126), and the invariants whose failure is a fault (R134). -/

namespace Sys2Proof.Machine

/-- `mode5` (R114): re-read from `reg[0x17][7]` at the start of every TICK. -/
def State.mode5 (s : State) : Bool := fFrameMode (s.getReg 0x17#5)

/-- The points of a schedule (R115). -/
def framePoints (mode5 : Bool) : List FramePoint := if mode5 then frame5Points else frame4Points

/-- `schedule(mode5, fc)`: whether a quarter frame and whether a half frame fires (R115). -/
def schedule (mode5 : Bool) (fc : Nat) : Bool × Bool :=
  match (framePoints mode5).find? (fun p => p.point == fc) with
  | some p => (p.quarter, p.half)
  | none => (false, false)

/-- `wrap(mode5)` (R115, R118). -/
def frameWrap (mode5 : Bool) : Nat := if mode5 then frame5Wrap else frame4Wrap

/-- A sample is due in this tick (R119, R121). -/
def State.sampleDue (s : State) : Bool := decide (chipClockHz ≤ s.acc + tickPhase)

/-- A TICK holds: its sample is due and fewer than 2 bytes are free (R120, R124). -/
def State.tickHolds (s : State) : Bool := s.sampleDue && decide (fifoCapacity - 2 < s.fifo.fill)

/-- A POP of `n` samples holds: less than one chunk is buffered (R126). -/
def popHolds (n : Nat) (f : Fifo) : Bool := decide (f.fill < 2 * n)

/-- A divider within `bits` bits, with the loop flag of its use (R18). -/
abbrev Divider.Fits (bits : Nat) (loop : Bool) (d : Divider) : Prop :=
  d.period < 2 ^ bits ∧ d.count < 2 ^ bits ∧ d.loop = loop

/-- The bounds of a pulse channel's fields (R18, R23, R24). -/
abbrev Pulse.Wf (p : Pulse) : Prop :=
  p.raw ≤ periodMax ∧ p.timer.Fits 11 true ∧ p.len.div.Fits 8 false ∧ p.env.div.Fits 4 true ∧
    p.sweep.div.Fits 3 true ∧ p.seq.index < 8

/-- The bounds of the triangle channel's fields (R18, R23, R25). -/
abbrev Triangle.Wf (t : Triangle) : Prop :=
  t.raw ≤ periodMax ∧ t.timer.Fits 11 true ∧ t.len.div.Fits 8 false ∧ t.lin.div.Fits 7 false ∧ t.seq.index < 32

/-- The bounds of the noise channel's fields (R18, R26). -/
abbrev Noise.Wf (n : Noise) : Prop :=
  n.timer.Fits 12 true ∧ n.len.div.Fits 8 false ∧ n.env.div.Fits 4 true

/-- The bounds of the ring buffer's heads and its invariant (R30). -/
abbrev Fifo.Wf (f : Fifo) : Prop :=
  f.wHead < fifoCapacity ∧ f.rHead < fifoCapacity ∧ f.fill ≤ fifoCapacity ∧
    (0 < f.fill ∧ f.fill < fifoCapacity → f.fill = (f.wHead + fifoCapacity - f.rHead) % fifoCapacity) ∧
    (f.fill = 0 ∨ f.fill = fifoCapacity → f.wHead = f.rHead)

/-- The invariants of 10_state.md, which a step that finds one of them false faults on (R18, R23 to R30, R134; log 7). -/
abbrev State.Wf (s : State) : Prop :=
  s.p0.Wf ∧ s.p1.Wf ∧ s.tri.Wf ∧ s.noise.Wf ∧ s.fc < max frame4Wrap frame5Wrap ∧ s.acc < chipClockHz ∧
    f64IsFinite s.gain = true ∧ s.fifo.Wf

/-- Whether a step started in this state faults (R134). -/
def State.broken (s : State) : Bool := decide (¬ s.Wf)

end Sys2Proof.Machine
end

