-- ==== Sys2Proof/Machine/RingBuffer.lean ====
section
/-! DEFINITION. The ring buffer (45_ring_buffer.md): the push inside TICK (R123), the removal of a chunk (R125), and the meaning of
POP. -/

namespace Sys2Proof.Machine

/-- `FIFO.push` (R123). Its precondition, two free bytes, is guaranteed by the hold of R124. -/
def Fifo.push (f : Fifo) (x : Sample) : Fifo :=
  let f1 := { f with wlock := true }
  let f2 := f1.memWrite f1.wHead 2 x.toNat
  { f2 with wHead := (f2.wHead + 2) % fifoCapacity, fill := f2.fill + 2, wlock := false }

/-- The `n` oldest samples of the buffer, oldest first, each read at its own offset (R125). -/
def Fifo.oldest (f : Fifo) (n : Nat) : List Sample :=
  (List.range n).map fun i => f.readSample ((f.rHead + 2 * i) % fifoCapacity)

/-- The heads after `n` samples are removed; the bytes stay (R125). -/
def Fifo.drop (f : Fifo) (n : Nat) : Fifo :=
  { f with rHead := (f.rHead + 2 * n) % fifoCapacity, fill := f.fill - 2 * n }

/-- One POP with chunk size `n` (R125, R126): it holds while less than one chunk is buffered. -/
def popChunk (n : Nat) (s : State) : State :=
  if popHolds n s.fifo then s
  else { s with fifo := s.fifo.drop n, chunks := s.chunks ++ [s.fifo.oldest n] }

/-- POP (R125). -/
def execPop (s : State) : Host.Outcome State Fault Refusal := .next (popChunk Config.chunkSamples s)

end Sys2Proof.Machine
end

