-- ==== Sys2Proof/Machine/Tick.lean ====
section
/-! DEFINITION. The core tick (R119): frame events, channel clocks, sample production, frame advance; and the meaning of TICK. -/

namespace Sys2Proof.Machine

/-- `quarterFrame()` (R116). -/
def State.quarterFrame (s : State) : State :=
  { s with p0 := s.p0.quarter, p1 := s.p1.quarter, tri := s.tri.quarter, noise := s.noise.quarter }

/-- `halfFrame()` (R117). -/
def State.halfFrame (s : State) : State :=
  { s with p0 := s.p0.half .p0, p1 := s.p1.half .p1, tri := s.tri.half, noise := s.noise.half }

/-- The frame events of a tick, the quarter frame before the half frame (R117, R119). -/
def State.frameEvents (s : State) (ev : Bool × Bool) : State :=
  let s1 := if ev.1 then s.quarterFrame else s
  if ev.2 then s1.halfFrame else s1

/-- The four channel clocks (R119). -/
def State.clockChannels (s : State) : State :=
  { s with p0 := s.p0.clock, p1 := s.p1.clock, tri := s.tri.clock, noise := s.noise.clock }

/-- The sample of the current channel outputs and gain (R119, R122). -/
def State.currentSample (s : State) : Sample := mixSample s.p0.get s.p1.get s.tri.get s.noise.get s.gain

/-- The sample accumulator and, when it reaches the chip clock, the push of a sample (R119, R121). -/
def State.produceSample (s : State) : State :=
  if chipClockHz ≤ s.acc + tickPhase then
    { s with acc := s.acc + tickPhase - chipClockHz, fifo := s.fifo.push s.currentSample }
  else { s with acc := s.acc + tickPhase }

/-- The frame advance, with the mode read at the start of the tick (R118, D16). -/
def State.advanceFrame (s : State) (mode5 : Bool) : State :=
  { s with fc := if frameWrap mode5 ≤ s.fc + 1 then 0 else s.fc + 1 }

/-- What a TICK that does not hold does, in the order of R119. -/
def State.tickBody (s : State) : State :=
  ((s.frameEvents (schedule s.mode5 s.fc)).clockChannels.produceSample).advanceFrame s.mode5

/-- TICK (R119): a held tick changes nothing (R120). -/
def execTick (s : State) : Host.Outcome State Fault Refusal := .next (if s.tickHolds then s else s.tickBody)

end Sys2Proof.Machine
end

