-- ==== Sys2Proof/Machine/Dispatch.lean ====
section
/-! DEFINITION. One arm per command: the meaning of each (R58). -/

namespace Sys2Proof.Machine

def exec (i : Instr) (s : State) : Host.Outcome State Fault Refusal :=
  match i with
  | .w4000 d => Sys2Proof.Machine.execW4000 d s
  | .w4001 d => Sys2Proof.Machine.execW4001 d s
  | .w4002 d => Sys2Proof.Machine.execW4002 d s
  | .w4003 d => Sys2Proof.Machine.execW4003 d s
  | .w4004 d => Sys2Proof.Machine.execW4004 d s
  | .w4005 d => Sys2Proof.Machine.execW4005 d s
  | .w4006 d => Sys2Proof.Machine.execW4006 d s
  | .w4007 d => Sys2Proof.Machine.execW4007 d s
  | .w4008 d => Sys2Proof.Machine.execW4008 d s
  | .w4009 d => Sys2Proof.Machine.execW4009 d s
  | .w400A d => Sys2Proof.Machine.execW400A d s
  | .w400B d => Sys2Proof.Machine.execW400B d s
  | .w400C d => Sys2Proof.Machine.execW400C d s
  | .w400D d => Sys2Proof.Machine.execW400D d s
  | .w400E d => Sys2Proof.Machine.execW400E d s
  | .w400F d => Sys2Proof.Machine.execW400F d s
  | .w4010 d => Sys2Proof.Machine.execW4010 d s
  | .w4011 d => Sys2Proof.Machine.execW4011 d s
  | .w4012 d => Sys2Proof.Machine.execW4012 d s
  | .w4013 d => Sys2Proof.Machine.execW4013 d s
  | .w4014 d => Sys2Proof.Machine.execW4014 d s
  | .w4015 d => Sys2Proof.Machine.execW4015 d s
  | .w4016 d => Sys2Proof.Machine.execW4016 d s
  | .w4017 d => Sys2Proof.Machine.execW4017 d s
  | .w4018 d => Sys2Proof.Machine.execW4018 d s
  | .w4019 d => Sys2Proof.Machine.execW4019 d s
  | .w401A d => Sys2Proof.Machine.execW401A d s
  | .w401B d => Sys2Proof.Machine.execW401B d s
  | .w401C d => Sys2Proof.Machine.execW401C d s
  | .w401D d => Sys2Proof.Machine.execW401D d s
  | .w401E d => Sys2Proof.Machine.execW401E d s
  | .w401F d => Sys2Proof.Machine.execW401F d s
  | .writeFlag a b v => Sys2Proof.Machine.execWriteFlag a b v s
  | .read a => Sys2Proof.Machine.execRead a s
  | .tick => Sys2Proof.Machine.execTick s
  | .pop => Sys2Proof.Machine.execPop s
  | .setGain g => Sys2Proof.Machine.execSetGain g s

end Sys2Proof.Machine
end

