-- ==== Sys2Proof/WellFormed.lean ====
section
/-! DEFINITION. Well-formedness. The operands of `Instr` have the exact widths of their fields (R55), so every
instruction is well formed by its type. What can be ill formed is a command word (the reserved bits of R51 to R54, R59)
and a pseudo-instruction (the operand ranges of R61 and R62). -/

namespace Sys2Proof

/-- W, WF and R words have bit 13 equal to 0 (R51, R52, R53, R59). -/
def CmdWord.indexInRange (w : CmdWord) : Bool := w.extractLsb' 14 2 == 3#2 || w.getLsbD 13 == false

/-- WF words have bits 7 to 4 equal to 0 (R52, R59). -/
def CmdWord.flagReservedZero (w : CmdWord) : Bool := w.extractLsb' 14 2 != 1#2 || w.extractLsb' 4 4 == 0#4

/-- R words have a low byte of 0 (R53, R59). -/
def CmdWord.readLowZero (w : CmdWord) : Bool := w.extractLsb' 14 2 != 2#2 || w.extractLsb' 0 8 == 0#8

/-- E words have a low byte of 0 (R54, R59). -/
def CmdWord.eventLowZero (w : CmdWord) : Bool := w.extractLsb' 14 2 != 3#2 || w.extractLsb' 0 8 == 0#8

/-- E words carry an event number 0x00, 0x01 or 0x02 (R54, R59). -/
def CmdWord.eventKnown (w : CmdWord) : Bool :=
  w.extractLsb' 14 2 != 3#2 || decide ((w.extractLsb' 8 6).toNat ≤ 2)

/-- A word that spells a command: none of the five cases of R59 holds. -/
def CmdWord.wellFormed (w : CmdWord) : Bool :=
  w.indexInRange && w.flagReservedZero && w.readLowZero && w.eventLowZero && w.eventKnown

/-- A rational operand has a denominator. -/
def Ratio.wellFormed (r : Ratio) : Bool := r.den != 0

/-- A duration's rational has a denominator (R62). -/
def Duration.wellFormed : Duration → Bool
  | .ms t => t.wellFormed
  | .hold => true

/-- The operand ranges of R61 and R62. The period range of a note is checked when it is computed
(`Sys2Proof.Machine.expand`). -/
def Pseudo.wellFormed : Pseudo → Bool
  | .tickN n => decide (1 ≤ n)
  | .enable d => decide (d < 256)
  | .periodP k p l => decide (k < 2) && decide (p ≤ 0x7FF) && decide (l ≤ 31)
  | .noteP k f t _ v d =>
    decide (k < 2) && f.wellFormed && decide (0 < f.num) && t.wellFormed && decide (v ≤ 15) && decide (d ≤ 3)
  | .noteT f t => f.wellFormed && decide (0 < f.num) && t.wellFormed

end Sys2Proof
end

