-- ==== Sys2Proof/Decode.lean ====
section
/-! DEFINITION. The decoder, total on every word and rejecting by name (R50 to R55, R59), and the encoder (R60). -/

namespace Sys2Proof

/-- Why a word spells no command: the cases of R59. Each is refused with code 1 (R131). -/
inductive DecodeError where
  /-- OP 00, 01 or 10 with bit 13 set: an index 0x20-0x3F. -/
  | indexOutOfRange
  /-- WF with bits 7 to 4 not zero. -/
  | flagReservedBits
  /-- R with a low byte that is not zero. -/
  | readLowByte
  /-- E with a low byte that is not zero. -/
  | eventLowByte
  /-- E with an event number in 0x03-0x3F. -/
  | reservedEvent
deriving DecidableEq, Repr

/-- OP, bits 15 to 14 (R50). -/
def opField (w : CmdWord) : BitVec 2 := w.extractLsb' 14 2

/-- The reserved bit 13 of W, WF and R words (R51, R52, R53). -/
def indexHighBit (w : CmdWord) : Bool := w.getLsbD 13

/-- ADDR, bits 12 to 8 (R55). -/
def addrField (w : CmdWord) : RegIndex := w.extractLsb' 8 5

/-- DATA, bits 7 to 0 (R55). -/
def dataField (w : CmdWord) : Byte := w.extractLsb' 0 8

/-- The reserved bits 7 to 4 of a WF word (R52). -/
def flagReserved (w : CmdWord) : BitVec 4 := w.extractLsb' 4 4

/-- VAL, bit 3 (R52, R55). -/
def valField (w : CmdWord) : Bool := w.getLsbD 3

/-- BIT, bits 2 to 0 (R52, R55). -/
def bitField (w : CmdWord) : BitVec 3 := w.extractLsb' 0 3

/-- EVT, bits 13 to 8 (R54). -/
def eventField (w : CmdWord) : BitVec 6 := w.extractLsb' 8 6

/-- The WRITE command of each of the 32 addresses (R58). The last arm is index 0x1F, the only one left of a 5-bit index. -/
def writeAt (a : RegIndex) (d : Byte) : Instr :=
  match a.toNat with
  | 0x00 => .w4000 d
  | 0x01 => .w4001 d
  | 0x02 => .w4002 d
  | 0x03 => .w4003 d
  | 0x04 => .w4004 d
  | 0x05 => .w4005 d
  | 0x06 => .w4006 d
  | 0x07 => .w4007 d
  | 0x08 => .w4008 d
  | 0x09 => .w4009 d
  | 0x0A => .w400A d
  | 0x0B => .w400B d
  | 0x0C => .w400C d
  | 0x0D => .w400D d
  | 0x0E => .w400E d
  | 0x0F => .w400F d
  | 0x10 => .w4010 d
  | 0x11 => .w4011 d
  | 0x12 => .w4012 d
  | 0x13 => .w4013 d
  | 0x14 => .w4014 d
  | 0x15 => .w4015 d
  | 0x16 => .w4016 d
  | 0x17 => .w4017 d
  | 0x18 => .w4018 d
  | 0x19 => .w4019 d
  | 0x1A => .w401A d
  | 0x1B => .w401B d
  | 0x1C => .w401C d
  | 0x1D => .w401D d
  | 0x1E => .w401E d
  | _ => .w401F d

/-- The decoder: OP selects the format (R50), the reserved fields are checked (R59), the operands are taken
as they stand (R55). SETGAIN's operand is the one beside the word (R54). -/
def decode (c : Command) : Except DecodeError Instr :=
  let w := c.word
  if opField w = 0#2 then
    if indexHighBit w then .error .indexOutOfRange else .ok (writeAt (addrField w) (dataField w))
  else if opField w = 1#2 then
    if indexHighBit w then .error .indexOutOfRange
    else if flagReserved w ≠ 0#4 then .error .flagReservedBits
    else .ok (.writeFlag (addrField w) (bitField w) (valField w))
  else if opField w = 2#2 then
    if indexHighBit w then .error .indexOutOfRange
    else if dataField w ≠ 0#8 then .error .readLowByte
    else .ok (.read (addrField w))
  else if dataField w ≠ 0#8 then .error .eventLowByte
  else if eventField w = 0x00#6 then .ok .tick
  else if eventField w = 0x01#6 then .ok .pop
  else if eventField w = 0x02#6 then .ok (.setGain c.operand)
  else .error .reservedEvent

/-- A format W word (R51). -/
def writeWord (a : RegIndex) (d : Byte) : CmdWord := 0b000#3 ++ a ++ d

/-- A format WF word (R52). -/
def flagWord (a : RegIndex) (b : BitVec 3) (v : Bool) : CmdWord := 0b010#3 ++ a ++ 0#4 ++ BitVec.ofBool v ++ b

/-- A format R word (R53). -/
def readWord (a : RegIndex) : CmdWord := 0b100#3 ++ a ++ 0#8

/-- A format E word (R54). -/
def eventWord (e : BitVec 6) : CmdWord := 0b11#2 ++ e ++ 0#8

/-- The encoder (R60): the word of each command, and SETGAIN's operand beside it. -/
def encode : Instr → Command
  | .w4000 d => ⟨writeWord 0x00#5 d, 0#64⟩
  | .w4001 d => ⟨writeWord 0x01#5 d, 0#64⟩
  | .w4002 d => ⟨writeWord 0x02#5 d, 0#64⟩
  | .w4003 d => ⟨writeWord 0x03#5 d, 0#64⟩
  | .w4004 d => ⟨writeWord 0x04#5 d, 0#64⟩
  | .w4005 d => ⟨writeWord 0x05#5 d, 0#64⟩
  | .w4006 d => ⟨writeWord 0x06#5 d, 0#64⟩
  | .w4007 d => ⟨writeWord 0x07#5 d, 0#64⟩
  | .w4008 d => ⟨writeWord 0x08#5 d, 0#64⟩
  | .w4009 d => ⟨writeWord 0x09#5 d, 0#64⟩
  | .w400A d => ⟨writeWord 0x0A#5 d, 0#64⟩
  | .w400B d => ⟨writeWord 0x0B#5 d, 0#64⟩
  | .w400C d => ⟨writeWord 0x0C#5 d, 0#64⟩
  | .w400D d => ⟨writeWord 0x0D#5 d, 0#64⟩
  | .w400E d => ⟨writeWord 0x0E#5 d, 0#64⟩
  | .w400F d => ⟨writeWord 0x0F#5 d, 0#64⟩
  | .w4010 d => ⟨writeWord 0x10#5 d, 0#64⟩
  | .w4011 d => ⟨writeWord 0x11#5 d, 0#64⟩
  | .w4012 d => ⟨writeWord 0x12#5 d, 0#64⟩
  | .w4013 d => ⟨writeWord 0x13#5 d, 0#64⟩
  | .w4014 d => ⟨writeWord 0x14#5 d, 0#64⟩
  | .w4015 d => ⟨writeWord 0x15#5 d, 0#64⟩
  | .w4016 d => ⟨writeWord 0x16#5 d, 0#64⟩
  | .w4017 d => ⟨writeWord 0x17#5 d, 0#64⟩
  | .w4018 d => ⟨writeWord 0x18#5 d, 0#64⟩
  | .w4019 d => ⟨writeWord 0x19#5 d, 0#64⟩
  | .w401A d => ⟨writeWord 0x1A#5 d, 0#64⟩
  | .w401B d => ⟨writeWord 0x1B#5 d, 0#64⟩
  | .w401C d => ⟨writeWord 0x1C#5 d, 0#64⟩
  | .w401D d => ⟨writeWord 0x1D#5 d, 0#64⟩
  | .w401E d => ⟨writeWord 0x1E#5 d, 0#64⟩
  | .w401F d => ⟨writeWord 0x1F#5 d, 0#64⟩
  | .writeFlag a b v => ⟨flagWord a b v, 0#64⟩
  | .read a => ⟨readWord a, 0#64⟩
  | .tick => ⟨eventWord 0x00#6, 0#64⟩
  | .pop => ⟨eventWord 0x01#6, 0#64⟩
  | .setGain g => ⟨eventWord 0x02#6, g⟩

/-- The instruction the decoder reads from the low `nbits` bits of `w`, the operand beside the word being zeros.
A command word is 16 bits (R50): a number that does not fit one spells no command. -/
def decodeTableWord (nbits w : Nat) : Option Instr :=
  if w % 2 ^ nbits < 2 ^ 16 then
    match decode ⟨BitVec.ofNat 16 (w % 2 ^ nbits), 0#64⟩ with
    | .ok i => some i
    | .error _ => none
  else none

end Sys2Proof
end

