-- ==== Sys2Proof/Machine/Fetch.lean ====
section
/-! DEFINITION. Taking the next command of the agents' stream. The block fetches no instructions (R17, R48): the stream is where an
attempted command waits (log 1). -/

namespace Sys2Proof.Machine

/-- What the next step of a state is. -/
inductive Next where
  /-- No agent has a command: no step is taken. -/
  | idle
  /-- `marks.fault` is set: no further step (R134). -/
  | stopped
  /-- An invariant of 10_state.md is false: the step faults (R134). -/
  | broken
  /-- A word that spells no command: it is refused (R59, R131). -/
  | undecodable (w : CmdWord)
  /-- A command to execute. -/
  | run (i : Instr)
deriving DecidableEq, Repr

/-- The next step: nothing without a command, then the fault mark, the invariants, and the decoder (R131, R134; log 7). -/
def State.nextStep (s : State) : Next :=
  match s.stream with
  | [] => .idle
  | c :: _ =>
    if s.marks.fault then .stopped
    else if s.broken then .broken
    else
      match decode c with
      | .ok i => .run i
      | .error _ => .undecodable c.word

/-- The state with the next command taken from the stream (log 2). -/
def State.takeCommand (s : State) : State := { s with stream := s.stream.tail }

end Sys2Proof.Machine
end

