-- ==== Sys2Proof/Machine/Step.lean ====
section
/-! DEFINITION. One atomic step (R39, R43): the next command of the stream, by its agent. -/

namespace Sys2Proof.Machine

/-- One step. With no command pending nothing happens; a machine whose fault mark is set takes no further step; a broken
invariant sets the mark; an undecodable word is refused; a command is executed (R131, R134; log 1, log 7). -/
def step (s : State) : Host.Outcome State Fault Refusal :=
  match s.nextStep with
  | .idle => .next s
  | .stopped => .fault .stopped
  | .broken => .next s.markFault
  | .undecodable w => .next (s.takeCommand.refuse (.undecodableWord w))
  | .run i => exec i s.takeCommand

/-- The state with the command of `w`'s low `nbits` bits, its operand zeros, placed where `step` takes its next command:
in front of the stream (log 1). -/
def State.withFetchWord (s : State) (nbits w : Nat) : State :=
  { s with stream := ⟨BitVec.ofNat 16 (w % 2 ^ nbits), 0#64⟩ :: s.stream }

end Sys2Proof.Machine
end

