-- ==== Sys2Proof/Machine/Assembler.lean ====
section
/-! DEFINITION. The assembler: the pseudo-instructions' fixed expansions (R61, R62) and the text of a line (R60). -/

namespace Sys2Proof.Machine

/-- A pulse id from a wider type: any number but 0 and 1 is rejected (R133). -/
def pulseIdOf : Nat → Option PulseId
  | 0 => some .p0
  | 1 => some .p1
  | _ => none

/-- `#{d:2, h:1, c:1, v:4}` (R62). -/
def controlByte (d : BitVec 2) (h c : Bool) (v : BitVec 4) : Byte := d ++ BitVec.ofBool h ++ BitVec.ofBool c ++ v

/-- `#{L:5, p[10:8]:3}` (R61, R62). -/
def highByte (l : BitVec 5) (p : BitVec 11) : Byte := l ++ p.extractLsb' 8 3

/-- `#p[7:0]` (R61, R62). -/
def lowByte (p : BitVec 11) : Byte := p.extractLsb' 0 8

/-- `floor(CHIP_CLOCK_HZ / (divisor * f) - 1 + 1/2)` over the reals, for a positive rational `f` (R62, D34). -/
def notePeriod (divisor : Nat) (f : Ratio) : Int :=
  (2 * chipClockHz * f.den - divisor * f.num : Int) / (2 * divisor * f.num : Int)

/-- A note's period as 11 bits; outside 0-0x7FF the assembler refuses (R62). -/
def notePeriodBits (divisor : Nat) (f : Ratio) : Option (BitVec 11) :=
  let p := notePeriod divisor f
  if 0 ≤ p ∧ p ≤ 0x7FF then some (BitVec.ofInt 11 p) else none

/-- The distance of length index `i` from `t` milliseconds, scaled by `CHIP_CLOCK_HZ * t.den`: one half frame is
`1000 * FRAME4_WRAP / (2 * CORE_TICK_HZ)` ms (R62, C14). -/
def lengthDistance (t : Ratio) (i : BitVec 5) : Nat :=
  let a := lengthOf i * (1000 * frame4Wrap) * t.den
  let b := chipClockHz * t.num
  (a - b) + (b - a)

/-- The smallest index in `best`, or in the indices after it, that minimises the distance (R62). -/
def nearestFrom (t : Ratio) : List Nat → BitVec 5 → BitVec 5
  | [], best => best
  | i :: rest, best =>
    nearestFrom t rest
      (if lengthDistance t (BitVec.ofNat 5 i) < lengthDistance t best then BitVec.ofNat 5 i else best)

/-- The halt flag and length index of a duration (R62). -/
def noteLength : Duration → Bool × BitVec 5
  | .hold => (true, 0#5)
  | .ms t => (false, nearestFrom t (List.range 32) 0#5)

/-- The expansion of a pseudo-instruction; none where the assembler refuses it (R61, R62). -/
def expand (q : Pseudo) : Option (List Instr) :=
  if !q.wellFormed then none
  else
    match q with
    | .tickN n => some (List.replicate n .tick)
    | .enable d => some [.w4015 (BitVec.ofNat 8 d)]
    | .periodP k p l =>
      (pulseIdOf k).map fun k =>
        [writeAt (pulseLoIdx k) (lowByte (BitVec.ofNat 11 p)),
         writeAt (pulseHiIdx k) (highByte (BitVec.ofNat 5 l) (BitVec.ofNat 11 p))]
    | .noteP k f t c v d =>
      (pulseIdOf k).bind fun k =>
        (notePeriodBits 16 f).map fun p =>
          [writeAt (pulseCtrlIdx k) (controlByte (BitVec.ofNat 2 d) (noteLength t).1 c (BitVec.ofNat 4 v)),
           writeAt (pulseLoIdx k) (lowByte p), writeAt (pulseHiIdx k) (highByte (noteLength t).2 p)]
    | .noteT f t =>
      (notePeriodBits 32 f).map fun p =>
        [.w4008 (BitVec.ofBool (noteLength t).1 ++ 0x7F#7), .w400A (lowByte p), .w400B (highByte (noteLength t).2 p)]

/-- A digit's value. -/
def digitOf (c : Char) : Option Nat :=
  if '0' ≤ c ∧ c ≤ '9' then some (c.toNat - 48)
  else if 'A' ≤ c ∧ c ≤ 'F' then some (c.toNat - 55)
  else if 'a' ≤ c ∧ c ≤ 'f' then some (c.toNat - 87)
  else none

/-- Digits in a base, continued from `acc`. -/
def digitsFrom (base : Nat) : Nat → List Char → Option Nat
  | acc, [] => some acc
  | acc, c :: cs => (digitOf c).bind fun d => if d < base then digitsFrom base (acc * base + d) cs else none

/-- A non-empty run of digits in a base. -/
def digits (base : Nat) : List Char → Option Nat
  | [] => none
  | cs => digitsFrom base 0 cs

/-- A number: decimal, or hexadecimal after `0x` or `$`. -/
def numberOf : List Char → Option Nat
  | '0' :: 'x' :: h => digits 16 h
  | '$' :: h => digits 16 h
  | cs => digits 10 cs

/-- A number below a bound. -/
def boundedOf (n : Nat) (cs : List Char) : Option Nat := (numberOf cs).bind fun v => if v < n then some v else none

/-- An address: a chip address `$4000`-`$401F` or a local index `0x00`-`0x1F` (R9, R60). -/
def addressOf : List Char → Option RegIndex
  | '$' :: h => (digits 16 h).bind fun v => if 0x4000 ≤ v ∧ v ≤ 0x401F then some (BitVec.ofNat 5 (v - 0x4000)) else none
  | '0' :: 'x' :: h => (digits 16 h).bind fun v => if v < 32 then some (BitVec.ofNat 5 v) else none
  | _ => none

/-- A data byte `#$hh` (R60). -/
def dataByteOf : List Char → Option Byte
  | '#' :: '$' :: h => (digits 16 h).bind fun v => if v < 256 then some (BitVec.ofNat 8 v) else none
  | _ => none

/-- A decimal number with an optional fraction and an optional exponent `e`, as a ratio (R60, R62). -/
def ratioOf (cs : List Char) : Option Ratio :=
  let man := cs.takeWhile (· != 'e')
  let whole := man.takeWhile (· != '.')
  let frac := (man.drop whole.length).drop 1
  (digits 10 (whole ++ frac)).bind fun n =>
    match cs.drop man.length with
    | [] => some ⟨n, 10 ^ frac.length⟩
    | _ :: '-' :: e => (digits 10 e).map fun k => ⟨n, 10 ^ (frac.length + k)⟩
    | _ :: e => (digits 10 e).map fun k => ⟨n * 10 ^ k, 10 ^ frac.length⟩

/-- An `f64` operand: the nearest value of a decimal, or a NaN or an infinity by name (R60, R113). DESIGN CHOICE: which NaN's bits
the name `NaN` stands for, which R131 then records, the spec leaves open; they are a free value (log 12). The token forms are
log 10's. -/
def f64Operand (cs : List Char) : Option F64 :=
  if cs = "NaN".toList then some f64NaN
  else if cs = "+inf".toList then some (f64Pack false (2047 * 2 ^ 52))
  else if cs = "-inf".toList then some (f64Pack true (2047 * 2 ^ 52))
  else
    match cs with
    | '-' :: r => (ratioOf r).map fun q => f64Round true (q.num * f64One) q.den
    | r => (ratioOf r).map fun q => f64Round false (q.num * f64One) q.den

/-- A duration operand: milliseconds or -1 (R62). -/
def durationOf (cs : List Char) : Option Duration :=
  if cs = ['-', '1'] then some .hold else (ratioOf cs).map .ms

/-- A bit operand 0 or 1. -/
def bitOperand (cs : List Char) : Option Bool := (boundedOf 2 cs).map (· == 1)

/-- The tokens of a line: separated by blanks and commas, up to a comment (R60). -/
def tokensOf (cur : List Char) : List Char → List (List Char)
  | [] => if cur = [] then [] else [cur.reverse]
  | c :: cs =>
    if c = ';' then (if cur = [] then [] else [cur.reverse])
    else if c = ' ' ∨ c = ',' then (if cur = [] then tokensOf [] cs else cur.reverse :: tokensOf [] cs)
    else tokensOf (c :: cur) cs

/-- One line of assembler text as commands (R60, R61, R62); none where the assembler refuses it. -/
def assembleLine (line : String) : Option (List Instr) :=
  match tokensOf [] line.toList with
  | [] => some []
  | op :: args =>
    match String.ofList op, args with
    | "W", [a, d] => (addressOf a).bind fun a => (dataByteOf d).map fun d => [writeAt a d]
    | "WF", [a, b, v] =>
      (addressOf a).bind fun a => (boundedOf 8 b).bind fun b => (bitOperand v).map fun v =>
        [.writeFlag a (BitVec.ofNat 3 b) v]
    | "R", [a] => (addressOf a).map fun a => [.read a]
    | "TICK", [] => some [.tick]
    | "POP", [] => some [.pop]
    | "GAIN", [g] => (f64Operand g).map fun g => [.setGain g]
    | "TICK", [n] => (numberOf n).bind fun n => expand (.tickN n)
    | "ENABLE", [d] => (dataByteOf d).bind fun d => expand (.enable d.toNat)
    | "PERIOD.P", [k, p, l] =>
      (numberOf k).bind fun k => (numberOf p).bind fun p => (numberOf l).bind fun l => expand (.periodP k p l)
    | "NOTE.P", [k, f, t, c, v, d] =>
      (numberOf k).bind fun k => (ratioOf f).bind fun f => (durationOf t).bind fun t =>
        (bitOperand c).bind fun c => (numberOf v).bind fun v => (numberOf d).bind fun d => expand (.noteP k f t c v d)
    | "NOTE.T", [f, t] => (ratioOf f).bind fun f => (durationOf t).bind fun t => expand (.noteT f t)
    | _, _ => none

end Sys2Proof.Machine
end

