-- ==== Sys2Proof/Safety.lean ====
section
/-! DEFINITION. The terms claims are stated in: the invariant of every reachable state, the agreement of channel state and register
bytes, the samples of an execution, and what an outside observer sees. -/

namespace Sys2Proof.Machine

/-- What holds of every state between steps: the invariants of 10_state.md (R134), heads and fill at whole samples (R37), the
write lock clear (R123, R129), the ring-buffer bytes in canonical form (log 6), and the refused mark set exactly when a
reason is recorded (R131). -/
def State.Inv (s : State) : Prop :=
  s.Wf ∧ s.fifo.wHead % 2 = 0 ∧ s.fifo.rHead % 2 = 0 ∧ s.fifo.fill % 2 = 0 ∧ s.fifo.wlock = false ∧
    cellsWf s.fifo.buf ∧ (s.marks.refused = true ↔ s.marks.refusals ≠ [])

/-- A pulse channel reflects the last writes of its registers (R14, C12): every field a register write sets but the raw period and
the enable flag, which the sweep also changes. Its timer follows its raw period. -/
def State.PulseCoherent (s : State) (k : PulseId) : Prop :=
  let ctrl := s.getReg (pulseCtrlIdx k)
  let swp := s.getReg (pulseSweepIdx k)
  (s.pulse k).duty = fDuty ctrl ∧ (s.pulse k).len.halt = fHalt ctrl ∧
    (s.pulse k).env.loop = fHalt ctrl ∧ (s.pulse k).env.constant = fConst ctrl ∧
    (s.pulse k).env.volume = fVol ctrl ∧ (s.pulse k).env.div.period = (fVol ctrl).toNat ∧
    (s.pulse k).sweep.enabled = fSweepEnable swp ∧ (s.pulse k).sweep.negate = fSweepNegate swp ∧
    (s.pulse k).sweep.shift = fSweepShift swp ∧ (s.pulse k).sweep.div.period = (fSweepPeriod swp).toNat ∧
    (s.pulse k).timer.period = (s.pulse k).raw ∧
    ((s.pulse k).enabled = true → fEnablePulse k (s.getReg 0x15#5) = true)

/-- The triangle channel reflects the last writes of its registers (R14, R94). -/
def State.TriCoherent (s : State) : Prop :=
  s.tri.len.halt = fTriCtrl (s.getReg 0x08#5) ∧ s.tri.lin.halt = fTriCtrl (s.getReg 0x08#5) ∧
    s.tri.lin.div.period = (fLinReload (s.getReg 0x08#5)).toNat ∧ s.tri.raw = s.triPeriod ∧
    s.tri.timer.period = s.tri.raw ∧ s.tri.enabled = fEnableTri (s.getReg 0x15#5)

/-- The noise channel reflects the last writes of its registers (R14). -/
def State.NoiseCoherent (s : State) : Prop :=
  s.noise.len.halt = fHalt (s.getReg 0x0C#5) ∧ s.noise.env.loop = fHalt (s.getReg 0x0C#5) ∧
    s.noise.env.constant = fConst (s.getReg 0x0C#5) ∧ s.noise.env.volume = fVol (s.getReg 0x0C#5) ∧
    s.noise.env.div.period = (fVol (s.getReg 0x0C#5)).toNat ∧ s.noise.pidx = fNoiseIdx (s.getReg 0x0E#5) ∧
    s.noise.lfsr.mode = fNoiseMode (s.getReg 0x0E#5) ∧ s.noise.enabled = fEnableNoise (s.getReg 0x15#5)

/-- "A channel's derived state must always reflect the last write to its relevant registers" (R14), in the form that holds:
what only register writes change equals what the stored bytes say (C12, R154). -/
def State.Coherent (s : State) : Prop :=
  s.PulseCoherent .p0 ∧ s.PulseCoherent .p1 ∧ s.TriCoherent ∧ s.NoiseCoherent

/-- The samples in the ring buffer, oldest first. -/
def State.buffered (s : State) : List Sample := s.fifo.oldest (s.fifo.fill / 2)

/-- Every sample pushed since reset, oldest first: those POP has returned and those still buffered (R128). -/
def State.sampleHistory (s : State) : List Sample := s.chunks.flatten ++ s.buffered

/-- No channel is enabled (R147). -/
def State.silent (s : State) : Prop :=
  s.p0.enabled = false ∧ s.p1.enabled = false ∧ s.tri.enabled = false ∧ s.noise.enabled = false

/-- The TICK command (R119). -/
def tickCommand : Command := ⟨0xC000#16, 0#64⟩

/-- A state with its channels' enable flags set to given values: what $4015 and a sweep mute change (R108, R89). -/
def State.withEnables (s : State) (a b c d : Bool) : State :=
  { s with p0 := { s.p0 with enabled := a }, p1 := { s.p1 with enabled := b },
           tri := { s.tri with enabled := c }, noise := { s.noise with enabled := d } }

/-- What an outside observer can see (R143): the bytes READ returned, the chunks POP returned, and the marks. -/
structure Observation where
  /-- The bytes READ returned. -/
  reads : List Byte
  /-- The chunks POP returned. -/
  chunks : List (List Sample)
  /-- The marks. -/
  marks : Marks
deriving DecidableEq, Repr

/-- The observation of a state (R143). -/
def State.observe (s : State) : Observation := ⟨s.reads, s.chunks, s.marks⟩

end Sys2Proof.Machine
end

