-- ==== Sys2Proof/Certificates/Slice0/Obligations.lean ====
section
/-! DEFINITION. The statements for the provers. "D<n>" is the decision of 92_eei_decisions.md a statement rests on, "log <n>" the
assumption log's entry. -/

open Sys2Proof Sys2Proof.Machine

/-! ### Encoding -/

/-- Decoding the encoding of any instruction gives that instruction, with every operand at every value (30_encoding.md; D1).
Every instruction is well formed by its type (Sys2Proof/WellFormed.lean). -/
def Obligations.DecodeOfEncodeIsTheInstruction : Prop := ∀ i : Instr, decode (encode i) = .ok i

/-- A word that decodes is the word its instruction encodes to, and SETGAIN's operand is the one beside it
(30_encoding.md sections 1 and 5; D1). -/
def Obligations.EncodeOfDecodeIsTheWord : Prop :=
  ∀ (c : Command) (i : Instr), decode c = .ok i →
    (encode i).word = c.word ∧ ∀ g, i = .setGain g → g = c.operand

/-- The words that spell no command are exactly those of 30_encoding.md section 4 (D1, D30): bit 13 set with OP 00, 01 or
10; WF with bits 7 to 4 not zero; R with a low byte; E with a low byte; E with an event number from 0x03 on. -/
def Obligations.RefusedWordsAreTheFiveCases : Prop :=
  ∀ c : Command, (∃ e, decode c = .error e) ↔
    (c.word.toNat / 2 ^ 14 ≠ 3 ∧ c.word.getLsbD 13 = true) ∨
      (c.word.toNat / 2 ^ 14 = 1 ∧ c.word.toNat / 16 % 16 ≠ 0) ∨
      (c.word.toNat / 2 ^ 14 = 2 ∧ c.word.toNat % 256 ≠ 0) ∨
      (c.word.toNat / 2 ^ 14 = 3 ∧ c.word.toNat % 256 ≠ 0) ∨
      (c.word.toNat / 2 ^ 14 = 3 ∧ 3 ≤ c.word.toNat / 256 % 64)

/-- Words of 95_test_vectors.md, one or more per family, decode to the instructions they stand for (sections 2.1, 2.9 and 3; D1).
That 0xC200 decodes to a SETGAIN of +0.0 is the model's choice: it puts zeros beside a table word (log 9). -/
def Obligations.PublishedWordsDecode : Prop :=
  decodeTableWord 16 0x009F = some (.w4000 0x9F#8) ∧ decodeTableWord 16 0x058B = some (.w4005 0x8B#8) ∧
    decodeTableWord 16 0x0309 = some (.w4003 0x09#8) ∧ decodeTableWord 16 0x0AFB = some (.w400A 0xFB#8) ∧
    decodeTableWord 16 0x0E83 = some (.w400E 0x83#8) ∧ decodeTableWord 16 0x150F = some (.w4015 0x0F#8) ∧
    decodeTableWord 16 0x1780 = some (.w4017 0x80#8) ∧ decodeTableWord 16 0x1FFF = some (.w401F 0xFF#8) ∧
    decodeTableWord 16 0x550B = some (.writeFlag 0x15#5 3#3 true) ∧
    decodeTableWord 16 0x4F0F = some (.writeFlag 0x0F#5 7#3 true) ∧
    decodeTableWord 16 0x9500 = some (.read 0x15#5) ∧ decodeTableWord 16 0xC000 = some .tick ∧
    decodeTableWord 16 0xC100 = some .pop ∧ decodeTableWord 16 0xC200 = some (.setGain 0#64)

/-! ### Steps, refusals and faults -/

/-- A step of a sound machine whose next command decodes runs exactly that command, on the state with the command taken from the
stream (the stream is the model's, log 1; 20_memory.md section 4). -/
def Obligations.StepRunsTheDecodedCommand : Prop :=
  ∀ (s : State) (c : Command) (rest : List Command) (i : Instr), s.stream = c :: rest → s.Wf →
    s.marks.fault = false → decode c = .ok i → step s = exec i { s with stream := rest }

/-- A word that spells no command changes nothing but the marks: refused is set and the word recorded with code 1
(60_exceptions.md section 1, D30; the stream and the list of records are the model's, log 1, log 4). -/
def Obligations.StepRefusesAnUndecodableWord : Prop :=
  ∀ (s : State) (c : Command) (rest : List Command) (e : DecodeError), s.stream = c :: rest → s.Wf →
    s.marks.fault = false → decode c = .error e →
      step s = .next { s with
        stream := rest
        marks := ⟨true, s.marks.fault, s.marks.refusals ++ [.undecodableWord c.word]⟩ }

/-- A step that starts where an invariant of 10_state.md is false sets the fault mark and changes nothing else, and a machine
whose fault mark is set takes no further step (60_exceptions.md section 1, D30; where the check stands is log 7). -/
def Obligations.StepFaultsOnABrokenInvariant : Prop :=
  ∀ s : State, s.stream ≠ [] →
    (s.marks.fault = false → ¬ s.Wf → step s = .next { s with marks := { s.marks with fault := true } }) ∧
      (s.marks.fault = true → step s = .fault .stopped)

/-- Every step of a sound machine with no fault mark answers a next state with no fault mark: nothing in the block stops it
(60_exceptions.md section 1, D30). -/
def Obligations.SoundMachineAlwaysSteps : Prop :=
  ∀ s : State, s.Wf → s.marks.fault = false → ∃ t, step s = .next t ∧ t.marks.fault = false

/-- The marks are never cleared and no recorded reason is lost (10_state.md section 9, D30; the record is log 4). -/
def Obligations.MarksAreNeverCleared : Prop :=
  ∀ s t : State, step s = .next t →
    (s.marks.refused = true → t.marks.refused = true) ∧ (s.marks.fault = true → t.marks.fault = true) ∧
      s.marks.refusals <+: t.marks.refusals

/-! ### Register writes -/

/-- W $4000 and W $4004 (41_pulse.md section 1; the field bits and the envelope load are D8 and D9's). -/
def Obligations.PulseControlWriteResult : Prop :=
  ∀ (d : Byte) (s : State),
    exec (.w4000 d) s = .next { s with
      reg := s.reg.set 0x00 d
      p0 := { s.p0 with
        duty := d.extractLsb' 6 2
        len := { s.p0.len with halt := d.getLsbD 5 }
        env := { s.p0.env with
          volume := d.extractLsb' 0 4, constant := d.getLsbD 4, loop := d.getLsbD 5, start := true
          div := { s.p0.env.div with period := d.toNat % 16 } } } } ∧
    exec (.w4004 d) s = .next { s with
      reg := s.reg.set 0x04 d
      p1 := { s.p1 with
        duty := d.extractLsb' 6 2
        len := { s.p1.len with halt := d.getLsbD 5 }
        env := { s.p1.env with
          volume := d.extractLsb' 0 4, constant := d.getLsbD 4, loop := d.getLsbD 5, start := true
          div := { s.p1.env.div with period := d.toNat % 16 } } } }

/-- W $4001 and W $4005 (41_pulse.md section 1; D8, D23). -/
def Obligations.PulseSweepWriteResult : Prop :=
  ∀ (d : Byte) (s : State),
    exec (.w4001 d) s = .next { s with
      reg := s.reg.set 0x01 d
      p0 := { s.p0 with
        sweep := ⟨⟨d.toNat / 16 % 8, d.toNat / 16 % 8, s.p0.sweep.div.loop⟩, d.getLsbD 7, d.getLsbD 3,
          d.extractLsb' 0 3⟩ } } ∧
    exec (.w4005 d) s = .next { s with
      reg := s.reg.set 0x05 d
      p1 := { s.p1 with
        sweep := ⟨⟨d.toNat / 16 % 8, d.toNat / 16 % 8, s.p1.sweep.div.loop⟩, d.getLsbD 7, d.getLsbD 3,
          d.extractLsb' 0 3⟩ } }

/-- W $4002 and W $4006: the new low byte with the stored high bits (41_pulse.md section 1; the bit placement is D8's, the kept
sequencer index D25's). -/
def Obligations.PulsePeriodLowWriteResult : Prop :=
  ∀ (d : Byte) (s : State),
    exec (.w4002 d) s = .next { s with
      reg := s.reg.set 0x02 d
      p0 := { s.p0 with
        raw := (s.getReg 0x03#5).toNat % 8 * 256 + d.toNat
        timer := ⟨(s.getReg 0x03#5).toNat % 8 * 256 + d.toNat, (s.getReg 0x03#5).toNat % 8 * 256 + d.toNat,
          s.p0.timer.loop⟩ } } ∧
    exec (.w4006 d) s = .next { s with
      reg := s.reg.set 0x06 d
      p1 := { s.p1 with
        raw := (s.getReg 0x07#5).toNat % 8 * 256 + d.toNat
        timer := ⟨(s.getReg 0x07#5).toNat % 8 * 256 + d.toNat, (s.getReg 0x07#5).toNat % 8 * 256 + d.toNat,
          s.p1.timer.loop⟩ } }

/-- W $4003 and W $4007: the new high bits with the stored low byte, and the length load (41_pulse.md section 1; bit placement
D8's, length table D13's, load while disabled D26's). -/
def Obligations.PulsePeriodHighWriteResult : Prop :=
  ∀ (d : Byte) (s : State),
    exec (.w4003 d) s = .next { s with
      reg := s.reg.set 0x03 d
      p0 := { s.p0 with
        raw := d.toNat % 8 * 256 + (s.getReg 0x02#5).toNat
        timer := ⟨d.toNat % 8 * 256 + (s.getReg 0x02#5).toNat, d.toNat % 8 * 256 + (s.getReg 0x02#5).toNat,
          s.p0.timer.loop⟩
        len := ⟨⟨lengthOf (d.extractLsb' 3 5), lengthOf (d.extractLsb' 3 5), s.p0.len.div.loop⟩, s.p0.len.halt⟩ } } ∧
    exec (.w4007 d) s = .next { s with
      reg := s.reg.set 0x07 d
      p1 := { s.p1 with
        raw := d.toNat % 8 * 256 + (s.getReg 0x06#5).toNat
        timer := ⟨d.toNat % 8 * 256 + (s.getReg 0x06#5).toNat, d.toNat % 8 * 256 + (s.getReg 0x06#5).toNat,
          s.p1.timer.loop⟩
        len := ⟨⟨lengthOf (d.extractLsb' 3 5), lengthOf (d.extractLsb' 3 5), s.p1.len.div.loop⟩, s.p1.len.halt⟩ } }

/-- W $4008: both halts and the direct load (42_triangle.md section 1; D10). -/
def Obligations.TriangleControlWriteResult : Prop :=
  ∀ (d : Byte) (s : State),
    exec (.w4008 d) s = .next { s with
      reg := s.reg.set 0x08 d
      tri := { s.tri with
        len := { s.tri.len with halt := d.getLsbD 7 }
        lin := ⟨⟨d.toNat % 128, d.toNat % 128, s.tri.lin.div.loop⟩, d.getLsbD 7⟩ } }

/-- W $400A (42_triangle.md section 1; D8, D25). -/
def Obligations.TrianglePeriodLowWriteResult : Prop :=
  ∀ (d : Byte) (s : State),
    exec (.w400A d) s = .next { s with
      reg := s.reg.set 0x0A d
      tri := { s.tri with
        raw := (s.getReg 0x0B#5).toNat % 8 * 256 + d.toNat
        timer := ⟨(s.getReg 0x0B#5).toNat % 8 * 256 + d.toNat, (s.getReg 0x0B#5).toNat % 8 * 256 + d.toNat,
          s.tri.timer.loop⟩ } }

/-- W $400B: period, length, and the linear counter again (42_triangle.md section 1; D8, D10, D13, D26). -/
def Obligations.TrianglePeriodHighWriteResult : Prop :=
  ∀ (d : Byte) (s : State),
    exec (.w400B d) s = .next { s with
      reg := s.reg.set 0x0B d
      tri := { s.tri with
        raw := d.toNat % 8 * 256 + (s.getReg 0x0A#5).toNat
        timer := ⟨d.toNat % 8 * 256 + (s.getReg 0x0A#5).toNat, d.toNat % 8 * 256 + (s.getReg 0x0A#5).toNat,
          s.tri.timer.loop⟩
        len := ⟨⟨lengthOf (d.extractLsb' 3 5), lengthOf (d.extractLsb' 3 5), s.tri.len.div.loop⟩, s.tri.len.halt⟩
        lin := ⟨⟨(s.getReg 0x08#5).toNat % 128, (s.getReg 0x08#5).toNat % 128, s.tri.lin.div.loop⟩,
          s.tri.lin.halt⟩ } }

/-- W $400C (43_noise.md section 1; D8, D9). -/
def Obligations.NoiseControlWriteResult : Prop :=
  ∀ (d : Byte) (s : State),
    exec (.w400C d) s = .next { s with
      reg := s.reg.set 0x0C d
      noise := { s.noise with
        len := { s.noise.len with halt := d.getLsbD 5 }
        env := { s.noise.env with
          volume := d.extractLsb' 0 4, constant := d.getLsbD 4, loop := d.getLsbD 5, start := true
          div := { s.noise.env.div with period := d.toNat % 16 } } } }

/-- W $400E: index, mode and timer; the shift register keeps its bits (43_noise.md section 1; D11, D12). -/
def Obligations.NoisePeriodWriteResult : Prop :=
  ∀ (d : Byte) (s : State),
    exec (.w400E d) s = .next { s with
      reg := s.reg.set 0x0E d
      noise := { s.noise with
        pidx := d.extractLsb' 0 4
        lfsr := ⟨s.noise.lfsr.shift, d.getLsbD 7⟩
        timer := ⟨noisePeriodOf (d.extractLsb' 0 4), noisePeriodOf (d.extractLsb' 0 4), s.noise.timer.loop⟩ } }

/-- W $400F (43_noise.md section 1; D8, D13, D26). -/
def Obligations.NoiseLengthWriteResult : Prop :=
  ∀ (d : Byte) (s : State),
    exec (.w400F d) s = .next { s with
      reg := s.reg.set 0x0F d
      noise := { s.noise with
        len := ⟨⟨lengthOf (d.extractLsb' 3 5), lengthOf (d.extractLsb' 3 5), s.noise.len.div.loop⟩,
          s.noise.len.halt⟩ } }

/-- W $4015: the four enable flags follow bits 0 to 3 and nothing else changes but the byte (44_chip_core.md section 1; that the
length counts stay is D7's and D26's). -/
def Obligations.ChannelEnableWriteResult : Prop :=
  ∀ (d : Byte) (s : State),
    exec (.w4015 d) s = .next { s with
      reg := s.reg.set 0x15 d
      p0 := { s.p0 with enabled := d.getLsbD 0 }
      p1 := { s.p1 with enabled := d.getLsbD 1 }
      tri := { s.tri with enabled := d.getLsbD 2 }
      noise := { s.noise with enabled := d.getLsbD 3 } }

/-- W $4017 and the writes to the 16 store-only registers change their own byte and nothing else (44_chip_core.md section 1;
D28, D29). -/
def Obligations.StoreOnlyWriteResult : Prop :=
  ∀ (d : Byte) (s : State),
    exec (.w4017 d) s = .next { s with reg := s.reg.set 0x17 d } ∧
    exec (.w4009 d) s = .next { s with reg := s.reg.set 0x09 d } ∧
    exec (.w400D d) s = .next { s with reg := s.reg.set 0x0D d } ∧
    exec (.w4010 d) s = .next { s with reg := s.reg.set 0x10 d } ∧
    exec (.w4011 d) s = .next { s with reg := s.reg.set 0x11 d } ∧
    exec (.w4012 d) s = .next { s with reg := s.reg.set 0x12 d } ∧
    exec (.w4013 d) s = .next { s with reg := s.reg.set 0x13 d } ∧
    exec (.w4014 d) s = .next { s with reg := s.reg.set 0x14 d } ∧
    exec (.w4016 d) s = .next { s with reg := s.reg.set 0x16 d } ∧
    exec (.w4018 d) s = .next { s with reg := s.reg.set 0x18 d } ∧
    exec (.w4019 d) s = .next { s with reg := s.reg.set 0x19 d } ∧
    exec (.w401A d) s = .next { s with reg := s.reg.set 0x1A d } ∧
    exec (.w401B d) s = .next { s with reg := s.reg.set 0x1B d } ∧
    exec (.w401C d) s = .next { s with reg := s.reg.set 0x1C d } ∧
    exec (.w401D d) s = .next { s with reg := s.reg.set 0x1D d } ∧
    exec (.w401E d) s = .next { s with reg := s.reg.set 0x1E d } ∧
    exec (.w401F d) s = .next { s with reg := s.reg.set 0x1F d }

/-- A WRITE to any of the 32 addresses stores its byte there and nowhere else, and leaves the frame counter, the accumulator, the
gain, the ring buffer, the marks and the outside interface alone (10_state.md section 2, 20_memory.md section 4; D6, D7). -/
def Obligations.EveryWriteStoresItsByteOnly : Prop :=
  ∀ (a : RegIndex) (d : Byte) (s : State), ∃ t, exec (writeAt a d) s = .next t ∧
    t.getReg a = d ∧ (∀ b, b ≠ a → t.getReg b = s.getReg b) ∧
      t.fc = s.fc ∧ t.acc = s.acc ∧ t.gain = s.gain ∧ t.fifo = s.fifo ∧ t.marks = s.marks ∧
      t.stream = s.stream ∧ t.reads = s.reads ∧ t.chunks = s.chunks

/-- WRITEFLAG is a WRITE of the stored byte with one bit replaced, action included, in one step (44_chip_core.md section 1;
D27). -/
def Obligations.WriteFlagIsAWriteOfOneChangedBit : Prop :=
  ∀ (a : RegIndex) (b : BitVec 3) (v : Bool) (s : State), ∃ (t : State) (nb : Byte),
    exec (.writeFlag a b v) s = .next t ∧ exec (writeAt a nb) s = .next t ∧ t.getReg a = nb ∧
      ∀ j, j < 8 → nb.getLsbD j = if j = b.toNat then v else (s.getReg a).getLsbD j

/-- WRITEFLAG on $4015 sets every enable flag, each from the changed byte: a pulse channel its sweep muted comes back by
a write of another channel's bit (70_reset_and_hazards.md section 3; D27). -/
def Obligations.EnableFlagWriteRestoresMutedChannels : Prop :=
  ∀ (b : BitVec 3) (v : Bool) (s : State), ∃ t, exec (.writeFlag 0x15#5 b v) s = .next t ∧
    t.p0.enabled = (if b = 0#3 then v else (s.getReg 0x15#5).getLsbD 0) ∧
    t.p1.enabled = (if b = 1#3 then v else (s.getReg 0x15#5).getLsbD 1) ∧
    t.tri.enabled = (if b = 2#3 then v else (s.getReg 0x15#5).getLsbD 2) ∧
    t.noise.enabled = (if b = 3#3 then v else (s.getReg 0x15#5).getLsbD 3)

/-- Every WRITEFLAG of a control register restarts its envelope, whatever the bit: the next quarter frame sets decay 15
(70_reset_and_hazards.md section 3; D9, D27). -/
def Obligations.ControlFlagWriteRestartsEnvelope : Prop :=
  ∀ (b : BitVec 3) (v : Bool) (s : State),
    (∃ t, exec (.writeFlag 0x00#5 b v) s = .next t ∧ t.p0.quarter.env.decay = 15#4) ∧
    (∃ t, exec (.writeFlag 0x04#5 b v) s = .next t ∧ t.p1.quarter.env.decay = 15#4) ∧
    (∃ t, exec (.writeFlag 0x0C#5 b v) s = .next t ∧ t.noise.quarter.env.decay = 15#4)

/-! ### READ and SETGAIN -/

/-- READ returns the stored byte of any index to the host and changes nothing else (44_chip_core.md section 1, D6; that returned
bytes are appended to a list is log 3's). -/
def Obligations.ReadReturnsTheStoredByte : Prop :=
  ∀ (a : RegIndex) (s : State), exec (.read a) s = .next { s with reads := s.reads ++ [s.reg[a.toNat]] }

/-- SETGAIN sets the gain to any finite operand and nothing else; a NaN or an infinity (exponent field all ones) is refused
with code 2 and its 64 bits (44_chip_core.md section 1; D20, D30; the list of records is log 4). -/
def Obligations.SetGainSetsOrRefuses : Prop :=
  ∀ (g : F64) (s : State),
    (g.extractLsb' 52 11 ≠ 0x7FF#11 → exec (.setGain g) s = .next { s with gain := g }) ∧
    (g.extractLsb' 52 11 = 0x7FF#11 → exec (.setGain g) s =
      .next { s with marks := ⟨true, s.marks.fault, s.marks.refusals ++ [.nonFiniteGain g]⟩ })

/-! ### TICK -/

/-- A TICK whose sample is due while fewer than 2 bytes are free changes nothing at all (44_chip_core.md section 3; D21). -/
def Obligations.TickHoldsOnAFullBuffer : Prop :=
  ∀ s : State, 1789773 ≤ s.acc + 96000 → 192000 - 2 < s.fifo.fill → exec .tick s = .next s

/-- A TICK that does not hold: the frame events of its `fc`, then the channel clocks, then the sample schedule and the
frame advance with the mode read at its start; the register file, the gain, the marks and the outside interface do not change,
and the ring buffer changes only where a sample is due (44_chip_core.md sections 2 to 4; D15 to D18). Then, field by field, what
those clocks and events do: the timers and sequencers of the four channels (the triangle's timer counts twice; 41_pulse.md,
42_triangle.md and 43_noise.md section 2; C6), the envelope clock of a quarter frame (D9), and the length and linear counters,
whose clock answers true exactly on 1 to 0 (D26). The pulse channels' half frame is SweepSetsOrMutesOnHalfFrames. -/
def Obligations.TickRunsFrameEventsClocksAndSchedule : Prop :=
  (∀ s : State, (s.acc + 96000 < 1789773 ∨ s.fifo.fill ≤ 192000 - 2) → ∃ t, exec .tick s = .next t ∧
    (s.fc = 0 ∨ s.fc = 7456 → t.p0 = (s.p0.quarter.half .p0).clock ∧ t.p1 = (s.p1.quarter.half .p1).clock ∧
      t.tri = s.tri.quarter.half.clock ∧ t.noise = s.noise.quarter.half.clock) ∧
    (s.fc = 3729 ∨ s.fc = 11185 → t.p0 = s.p0.quarter.clock ∧ t.p1 = s.p1.quarter.clock ∧
      t.tri = s.tri.quarter.clock ∧ t.noise = s.noise.quarter.clock) ∧
    (s.fc ≠ 0 → s.fc ≠ 3729 → s.fc ≠ 7456 → s.fc ≠ 11185 →
      t.p0 = s.p0.clock ∧ t.p1 = s.p1.clock ∧ t.tri = s.tri.clock ∧ t.noise = s.noise.clock) ∧
    t.fc = (if s.fc + 1 < (if (s.getReg 0x17#5).getLsbD 7 then 18641 else 14915) then s.fc + 1 else 0) ∧
    (1789773 ≤ s.acc + 96000 → t.acc = s.acc + 96000 - 1789773 ∧ t.fifo.wHead = (s.fifo.wHead + 2) % 192000 ∧
      t.fifo.fill = s.fifo.fill + 2 ∧ t.fifo.rHead = s.fifo.rHead ∧ t.fifo.wlock = false) ∧
    (s.acc + 96000 < 1789773 → t.acc = s.acc + 96000 ∧ t.fifo = s.fifo) ∧
    t.reg = s.reg ∧ t.gain = s.gain ∧ t.marks = s.marks ∧ t.stream = s.stream ∧ t.reads = s.reads ∧
    t.chunks = s.chunks) ∧
  (∀ p : Pulse, p.timer.loop = true →
    (p.timer.count = 0 → p.clock = { p with
      timer := ⟨p.timer.period, p.timer.period, true⟩
      seq := ⟨(p.seq.index + 1) % 8⟩ }) ∧
    (p.timer.count ≠ 0 → p.clock = { p with timer := ⟨p.timer.period, p.timer.count - 1, true⟩ })) ∧
  (∀ t : Triangle, t.timer.loop = true →
    (t.timer.count = 0 → t.timer.period = 0 → t.clock = { t with
      timer := ⟨0, 0, true⟩
      seq := ⟨(t.seq.index + 2) % 32⟩ }) ∧
    (t.timer.count = 0 → t.timer.period ≠ 0 → t.clock = { t with
      timer := ⟨t.timer.period, t.timer.period - 1, true⟩
      seq := ⟨(t.seq.index + 1) % 32⟩ }) ∧
    (t.timer.count = 1 → t.clock = { t with
      timer := ⟨t.timer.period, t.timer.period, true⟩
      seq := ⟨(t.seq.index + 1) % 32⟩ }) ∧
    (2 ≤ t.timer.count → t.clock = { t with timer := ⟨t.timer.period, t.timer.count - 2, true⟩ })) ∧
  (∀ n : Noise, n.timer.loop = true →
    (n.timer.count = 0 → n.clock = { n with
      timer := ⟨n.timer.period, n.timer.period, true⟩
      lfsr := n.lfsr.clock }) ∧
    (n.timer.count ≠ 0 → n.clock = { n with timer := ⟨n.timer.period, n.timer.count - 1, true⟩ })) ∧
  (∀ (p : Pulse) (t : Triangle) (n : Noise),
    p.quarter = { p with env := p.env.clock } ∧ n.quarter = { n with env := n.env.clock } ∧
      t.quarter = { t with lin := t.lin.clock.1 } ∧ t.half = { t with len := t.len.clock.1 } ∧
      n.half = { n with len := n.len.clock.1 }) ∧
  (∀ e : Envelope, e.div.loop = true →
    (e.start = true → e.clock = { e with
      start := false
      decay := 15#4
      div := ⟨e.div.period, e.div.period, true⟩ }) ∧
    (e.start = false → e.div.count ≠ 0 → e.clock = { e with div := ⟨e.div.period, e.div.count - 1, true⟩ }) ∧
    (e.start = false → e.div.count = 0 → e.clock = { e with
      div := ⟨e.div.period, e.div.period, true⟩
      decay := if e.decay = 0#4 then (if e.loop then 15#4 else 0#4) else e.decay - 1#4 })) ∧
  ∀ c : LengthCounter, c.div.loop = false →
    (c.halt = true → c.clock = (c, false)) ∧
    (c.halt = false → c.clock = (⟨⟨c.div.period, c.div.count - 1, false⟩, false⟩, decide (c.div.count = 1)))

/-- A due sample is the mix of the channel outputs after the tick's clocks, stored low byte first at the write head; every other
byte of the ring buffer reads as before (44_chip_core.md sections 3 and 4, 45_ring_buffer.md section 1; D17, D19, D21; the
canonical form of the bytes is log 6's). -/
def Obligations.DueTickStoresOneSample : Prop :=
  ∀ s : State, cellsWf s.fifo.buf → 1789773 ≤ s.acc + 96000 → s.fifo.fill ≤ 192000 - 2 →
    ∃ t, exec .tick s = .next t ∧ ∀ a, a < 192000 → t.fifo.readByte a =
      if a = s.fifo.wHead % 192000 then
        (mixSample t.p0.get t.p1.get t.tri.get t.noise.get s.gain).extractLsb' 0 8
      else if a = (s.fifo.wHead + 1) % 192000 then
        (mixSample t.p0.get t.p1.get t.tri.get t.noise.get s.gain).extractLsb' 8 8
      else s.fifo.readByte a

/-- Setting or clearing enable flags changes nothing of what a TICK does to the timers, sequencers, counters, envelopes, sweeps and
shift register, nor when a sample is produced: a disabled channel keeps running (60_exceptions.md section 3; D33). -/
def Obligations.EnablesDoNotStopTheChannels : Prop :=
  ∀ (s t : State) (a b c d : Bool), exec .tick s = .next t → ∃ t', exec .tick (s.withEnables a b c d) = .next t' ∧
    { t'.p0 with enabled := t.p0.enabled } = t.p0 ∧ { t'.p1 with enabled := t.p1.enabled } = t.p1 ∧
    { t'.tri with enabled := t.tri.enabled } = t.tri ∧ { t'.noise with enabled := t.noise.enabled } = t.noise ∧
    t'.fc = t.fc ∧ t'.acc = t.acc ∧ t'.fifo.wHead = t.fifo.wHead ∧ t'.fifo.fill = t.fifo.fill

/-- While no channel is enabled every TICK leaves them disabled and pushes nothing but zero samples (70_reset_and_hazards.md
section 1; derived there; the list form of the history is log 3's). -/
def Obligations.SilentTicksPushZeroSamples : Prop :=
  ∀ s t : State, s.Inv → s.silent → exec .tick s = .next t →
    t.silent ∧ ∃ k, k ≤ 1 ∧ t.sampleHistory = s.sampleHistory ++ List.replicate k 0#16

/-! ### POP -/

/-- While less than one chunk is buffered POP takes no step: nothing changes. That the held command is used up by the attempt
is log 2's, and is not part of this statement. -/
def Obligations.PopHoldsBelowOneChunk : Prop :=
  ∀ s : State, s.fifo.fill < 2 * Config.chunkSamples → exec .pop s = .next s

/-- POP removes the oldest chunk: it returns `CHUNK_SAMPLES` samples, oldest first, low byte first, moves the read head and
lowers the fill, and clears no byte (45_ring_buffer.md section 2; D22; that returned chunks are appended to a list is
log 3's). -/
def Obligations.PopRemovesTheOldestChunk : Prop :=
  ∀ s : State, 2 * Config.chunkSamples ≤ s.fifo.fill → exec .pop s = .next { s with
    fifo := { s.fifo with
      rHead := (s.fifo.rHead + 2 * Config.chunkSamples) % 192000
      fill := s.fifo.fill - 2 * Config.chunkSamples }
    chunks := s.chunks ++ [(List.range Config.chunkSamples).map fun i =>
      s.fifo.readByte (s.fifo.rHead + 2 * i + 1) ++ s.fifo.readByte (s.fifo.rHead + 2 * i)] }

/-- The core and the consumer never wait for each other at once: where a TICK changes nothing, a POP changes something
(45_ring_buffer.md section 3; derived there). -/
def Obligations.CoreAndConsumerNeverBothHold : Prop :=
  ∀ s : State, s.Inv → exec .tick s ≠ .next s ∨ exec .pop s ≠ .next s

/-! ### Primitives -/

/-- One clock of a divider, in its three cases. -/
def Obligations.DividerClockFiresOrCountsDown : Prop :=
  ∀ d : Divider,
    (d.count = 0 → d.loop = true → d.clock = (⟨d.period, d.period, true⟩, true)) ∧
    (d.count = 0 → d.loop = false → d.clock = (d, true)) ∧
    (d.count ≠ 0 → d.clock = (⟨d.period, d.count - 1, d.loop⟩, false))

/-- A looping divider loaded with period p fires on exactly every (p+1)-th clock (40_primitives.md section 1 and
95_test_vectors.md E1; derived there). -/
def Obligations.LoadedDividerFiresEveryPeriodPlusOne : Prop :=
  ∀ (d : Divider) (p n : Nat), d.loop = true →
    (((fun x : Divider => x.clock.1)^[n] (d.load p)).clock.2 = true ↔ (n + 1) % (p + 1) = 0)

/-- After a load and its start clock, the decay level falls by one every (volume + 1) clocks: to 0, where it stays, or from 0
back to 15 when looping (40_primitives.md section 3, 90_conflicts.md C11; D9). -/
def Obligations.EnvelopeDecaysOncePerPeriod : Prop :=
  ∀ (e : Envelope) (v : BitVec 4) (c : Bool) (n : Nat), e.div.loop = true →
    (Envelope.clock^[n] (e.load v c false).clock).decay.toNat = 15 - n / (v.toNat + 1) ∧
    (Envelope.clock^[n] (e.load v c true).clock).decay.toNat = 15 - n / (v.toNat + 1) % 16

/-- One clock of the noise shift register: its bits, its fixed point 0, that it loses nothing, and its two periods from the
seed. -/
def Obligations.LfsrClockShiftsWithFeedback : Prop :=
  (∀ r : Lfsr, r.clock.mode = r.mode ∧ (∀ i, i < 14 → r.clock.shift.getLsbD i = r.shift.getLsbD (i + 1)) ∧
    r.clock.shift.getLsbD 14 = (r.shift.getLsbD 0 ^^ (if r.mode then r.shift.getLsbD 6 else r.shift.getLsbD 1)) ∧
    (r.shift = 0#15 → r.clock.shift = 0#15)) ∧
  (∀ r q : Lfsr, r.clock = q.clock → r = q) ∧
  (∀ n, Lfsr.clock^[n] ⟨0x4000#15, false⟩ = ⟨0x4000#15, false⟩ ↔ n % 32767 = 0) ∧
  (∀ n, Lfsr.clock^[n] ⟨0x4000#15, true⟩ = ⟨0x4000#15, true⟩ ↔ n % 93 = 0)

/-- One clock of a sequencer moves its index one place around its table and answers the new current value: the pulse rows of
8 and the triangle table of 32. -/
def Obligations.SequencerClockAdvancesCyclically : Prop :=
  ∀ q : Sequencer,
    (∀ d : BitVec 2, (q.clock (dutyRow d)).1.index = (q.index + 1) % 8 ∧
      (dutyRow d)[(q.index + 1) % 8]? = some (q.clock (dutyRow d)).2) ∧
    (q.clock triangleTable).1.index = (q.index + 1) % 32 ∧
      triangleTable[(q.index + 1) % 32]? = some (q.clock triangleTable).2

/-- A half frame on a pulse channel whose sweep divider loops: a disabled sweep does nothing, a counting one only counts, a firing
one sets the period to its target or, when the target leaves [8, 0x7FF], disables the channel and keeps the period; id 1
subtracts one more. In every case the length counter, which never reloads, keeps its count while halted and otherwise goes one
down to 0 (40_primitives.md sections 2 and 4, 41_pulse.md section 2; D23, D24, D26). -/
def Obligations.SweepSetsOrMutesOnHalfFrames : Prop :=
  ∀ (k : PulseId) (p : Pulse) (target : Int) (len : LengthCounter), p.sweep.div.loop = true → p.len.div.loop = false →
    len = { p.len with div := { p.len.div with
      count := if p.len.halt then p.len.div.count else p.len.div.count - 1 } } →
    target = (if p.sweep.negate then
        (p.raw : Int) - (p.raw / 2 ^ p.sweep.shift.toNat : Nat) - (if k = .p1 then 1 else 0)
      else (p.raw : Int) + (p.raw / 2 ^ p.sweep.shift.toNat : Nat)) →
    (p.sweep.enabled = false → p.half k = { p with len := len }) ∧
    (p.sweep.enabled = true → p.sweep.div.count ≠ 0 → p.half k = { p with
      len := len
      sweep := { p.sweep with div := ⟨p.sweep.div.period, p.sweep.div.count - 1, true⟩ } }) ∧
    (p.sweep.enabled = true → p.sweep.div.count = 0 → target < 8 ∨ 2047 < target → p.half k = { p with
      len := len
      sweep := { p.sweep with div := ⟨p.sweep.div.period, p.sweep.div.period, true⟩ }
      enabled := false }) ∧
    (p.sweep.enabled = true → p.sweep.div.count = 0 → 8 ≤ target → target ≤ 2047 → p.half k = { p with
      len := len
      sweep := { p.sweep with div := ⟨p.sweep.div.period, p.sweep.div.period, true⟩ }
      raw := target.toNat
      timer := { p.timer with period := target.toNat } })

/-- The pulse output: 0 if disabled, exhausted, out of the period range or at a low duty bit, otherwise the envelope's output. -/
def Obligations.PulseOutputIsTheGatedEnvelope : Prop :=
  ∀ p : Pulse, p.seq.index < 8 → p.get =
    if p.enabled = false ∨ p.len.div.count = 0 ∨ p.raw < 8 ∨ 0x7FF < p.raw ∨
        (dutyRow p.duty)[p.seq.index]? = some false then 0#4
    else if p.env.constant then p.env.volume else p.env.decay

/-- The triangle output: 0 if disabled or either counter is exhausted, otherwise the ramp 15 down to 0 and 0 up to 15
(42_triangle.md section 3; the entries of the ramp are the spec's inference, 40_primitives.md section 7, "the only 32-entry
reading with unit steps and both ends at 15"). -/
def Obligations.TriangleOutputIsTheGatedRamp : Prop :=
  ∀ t : Triangle, t.seq.index < 32 → t.get.toNat =
    if t.enabled = false ∨ t.len.div.count = 0 ∨ t.lin.div.count = 0 then 0
    else if t.seq.index ≤ 15 then 15 - t.seq.index else t.seq.index - 16

/-- The noise output: 0 if disabled, exhausted or at a set bit 0 of the shift register, otherwise the envelope's output. -/
def Obligations.NoiseOutputIsGatedByAClearBit : Prop :=
  ∀ n : Noise, n.get =
    if n.enabled = false ∨ n.len.div.count = 0 ∨ n.lfsr.shift.getLsbD 0 = true then 0#4
    else if n.env.constant then n.env.volume else n.env.decay

/-- The three tables whose values the source leaves out, as the spec chose them (40_primitives.md section 7; D12, D13, D14): the
length table, the noise periods, and the high indices of the four duty rows. -/
def Obligations.TablesHoldTheChosenValues : Prop :=
  (List.range 32).map (fun i => lengthOf (BitVec.ofNat 5 i)) =
      [10, 254, 20, 2, 40, 4, 80, 6, 160, 8, 60, 10, 14, 12, 26, 14,
        12, 16, 24, 18, 48, 20, 96, 22, 192, 24, 72, 26, 16, 28, 32, 30] ∧
    (List.range 16).map (fun i => noisePeriodOf (BitVec.ofNat 4 i)) =
      [4, 8, 16, 32, 64, 96, 128, 160, 202, 254, 380, 508, 762, 1016, 2034, 4068] ∧
    (List.range 4).map (fun r => (List.range 8).filter fun i => (dutyRow (BitVec.ofNat 2 r))[i]? == some true) =
      [[1], [1, 2], [1, 2, 3, 4], [0, 3, 4, 5, 6, 7]]

/-- A pushed sample occupies two bytes, the low byte at the write head and the high byte at the next offset, and POP assembles a
sample from two consecutive bytes the same way. -/
def Obligations.SamplesAreLittleEndian : Prop :=
  ∀ (f : Fifo) (x : Sample), cellsWf f.buf →
    (f.push x).readByte f.wHead = x.extractLsb' 0 8 ∧
      (f.push x).readByte ((f.wHead + 1) % 192000) = x.extractLsb' 8 8 ∧
      ∀ a, f.readSample a = f.readByte (a + 1) ++ f.readByte a

/-! ### Mixer -/

/-- All-zero channel outputs mix to 0 at every finite gain, and a gain of +0.0 or -0.0 makes every sample 0 (44_chip_core.md
section 4, 95_test_vectors.md E4 and E8; D19, D20). -/
def Obligations.ZeroInputsOrZeroGainMixToZero : Prop :=
  (∀ g : F64, f64IsFinite g = true → mixSample 0#4 0#4 0#4 0#4 g = 0#16) ∧
    ∀ p0 p1 t n : BitVec 4, mixSample p0 p1 t n 0#64 = 0#16 ∧ mixSample p0 p1 t n 0x8000000000000000#64 = 0#16

/-- The mixer's value (44_chip_core.md section 4; D19). First the formula, for all channel outputs and every gain, its constants as
the bits of 95.88, 8128.0, 100.0, 159.79, 1.0, 8227.0, 12241.0 and 32767.0: the pulse term, 0 where the sum is 0; the triangle
and noise term, 0 where both are 0; the gain before the clamp to [-1, 1]; the product with 32767, rounded half away from zero.
Then its values in tables V-M1 to V-M4 (95_test_vectors.md section 2.6; derived there): the 31 pulse sums, the triangle alone,
triangle with noise, and the gains 0, 0.5, 1, 1.5, 1.6, 2, -1, -2 and 1e300 for all four channels at 15 and for pulse 0 at 8. -/
def Obligations.MixerComputesTheFormula : Prop :=
  (∀ ps : Nat, pulseOut ps = if ps = 0 then 0#64 else
    f64Div 0x4057F851EB851EB8#64 (f64Add (f64Div 0x40BFC00000000000#64 (f64OfNat ps)) 0x4059000000000000#64)) ∧
  (∀ t n : Nat, tndOut t n = if t = 0 ∧ n = 0 then 0#64 else
    f64Div 0x4063F947AE147AE1#64 (f64Add (f64Div 0x3FF0000000000000#64
      (f64Add (f64Div (f64OfNat t) 0x40C0118000000000#64) (f64Div (f64OfNat n) 0x40C7E88000000000#64)))
      0x4059000000000000#64)) ∧
  (∀ (p0 p1 t n : BitVec 4) (g x : F64),
    x = f64Mul (f64Add (pulseOut (p0.toNat + p1.toNat)) (tndOut t.toNat n.toNat)) g →
      mixSample p0 p1 t n g = BitVec.ofInt 16 (f64RoundAway (f64Mul
        (if f64Lt x 0xBFF0000000000000#64 then 0xBFF0000000000000#64
          else if f64Lt 0x3FF0000000000000#64 x then 0x3FF0000000000000#64 else x) 0x40DFFFC000000000#64))) ∧
  (∀ y : F64, ∃ m : Nat, f64RoundAway y = (if f64Neg y then -(m : Int) else (m : Int)) ∧
    2 * m * f64One ≤ 2 * f64Units y + f64One ∧ 2 * f64Units y + f64One < 2 * (m + 1) * f64One) ∧
  (List.range 31).map (fun ps => mixPcm (BitVec.ofNat 4 (min ps 15)) (BitVec.ofNat 4 (ps - 15)) 0#4 0#4 gainInit) =
    [0, 382, 754, 1118, 1474, 1821, 2160, 2491, 2815, 3132, 3442, 3745, 4042, 4332, 4616, 4895, 5167, 5434, 5696, 5953,
      6204, 6450, 6692, 6929, 7162, 7390, 7614, 7834, 8050, 8262, 8470] ∧
  (List.range 16).map (fun t => mixPcm 0#4 0#4 (BitVec.ofNat 4 t) 0#4 gainInit) =
    [0, 629, 1243, 1842, 2428, 3000, 3559, 4106, 4640, 5163, 5674, 6175, 6665, 7145, 7614, 8074] ∧
  [(0, 1), (0, 8), (0, 10), (0, 15), (1, 1), (1, 8), (1, 15), (8, 1), (8, 8), (8, 15), (15, 1), (15, 8), (15, 15)].map
      (fun (p : Nat × Nat) => mixPcm 0#4 0#4 (BitVec.ofNat 4 p.1) (BitVec.ofNat 4 p.2) gainInit) =
    [424, 3212, 3954, 5716, 1043, 3766, 6215, 4993, 7323, 9434, 8378, 10394, 12233] ∧
  [0x0000000000000000#64, 0x3FE0000000000000#64, 0x3FF0000000000000#64, 0x3FF8000000000000#64, 0x3FF999999999999A#64,
      0x4000000000000000#64, 0xBFF0000000000000#64, 0xC000000000000000#64, 0x7E37E43C8800759C#64].map
      (fun g => (mixPcm 15#4 15#4 15#4 15#4 g, mixPcm 8#4 0#4 0#4 0#4 g)) =
    [(0, 0), (10351, 1408), (20703, 2815), (31054, 4223), (32767, 4504), (32767, 5630), (-20703, -2815),
      (-32767, -5630), (32767, 32767)]

/-- At every finite gain the sample lies in [-32767, 32767], so its 16-bit form loses nothing (44_chip_core.md section 4;
D19). -/
def Obligations.MixStaysInSampleRange : Prop :=
  ∀ (p0 p1 t n : BitVec 4) (g : F64), f64IsFinite g = true →
    -32767 ≤ mixPcm p0 p1 t n g ∧ mixPcm p0 p1 t n g ≤ 32767 ∧
      (mixSample p0 p1 t n g).toInt = mixPcm p0 p1 t n g

/-- `f64RoundMag`, the rounding that the mixer's operations use, is IEEE 754's round to nearest, ties to even, wherever its result
is finite: no finite binary64 value is nearer to `n / d` units than the result, and at a tie the result's significand is even
(00_scope.md section 5; D19). -/
def Obligations.RoundingIsToNearestEven : Prop :=
  ∀ n d : Nat, 0 < d → f64RoundMag n d < 2047 * 2 ^ 52 → ∀ y : F64, f64IsFinite y = true → f64Neg y = false →
    ((f64Units (f64Pack false (f64RoundMag n d)) * d : Int) - n).natAbs ≤ ((f64Units y * d : Int) - n).natAbs ∧
    (((f64Units (f64Pack false (f64RoundMag n d)) * d : Int) - n).natAbs = ((f64Units y * d : Int) - n).natAbs →
      f64Units y ≠ f64Units (f64Pack false (f64RoundMag n d)) → f64RoundMag n d % 2 = 0)

/-! ### Invariants and whole-machine rules -/

/-- The reset state satisfies the invariant and the agreement of channels and registers (10_state.md section 10; D4, D5, D18,
D20, D21). -/
def Obligations.ResetSatisfiesTheInvariants : Prop := State.reset.Inv ∧ State.reset.Coherent

/-- Every step keeps the invariant: the bounds of 10_state.md, whole samples, the canonical bytes, the clear write lock, the marks
(60_exceptions.md section 1 and 20_memory.md section 3; derived there; log 6, log 7). -/
def Obligations.EveryStepKeepsTheInvariant : Prop := ∀ s t : State, s.Inv → step s = .next t → t.Inv

/-- Every step keeps the channel state in agreement with the last register writes, but for what the sweep changes (10_state.md
section 2, 90_conflicts.md C12; D7). -/
def Obligations.EveryStepKeepsChannelsCoherent : Prop := ∀ s t : State, s.Coherent → step s = .next t → t.Coherent

/-- Among the commands only the named ones change each piece of shared state: register bytes only WRITE and WRITEFLAG, the gain
only SETGAIN, frame counter, accumulator, buffer bytes and write head only TICK, the read head and the chunks only POP, the fill
only TICK and POP, the returned bytes only READ, the marks only a SETGAIN of a value that is not finite (10_state.md sections 2 and 6 to 9; D7, D20, D21, D30). -/
def Obligations.OnlyTheNamedCommandsChangeSharedState : Prop :=
  ∀ (i : Instr) (s t : State), exec i s = .next t →
    (t.reg ≠ s.reg → (∃ a d, i = writeAt a d) ∨ ∃ a b v, i = .writeFlag a b v) ∧
    (t.gain ≠ s.gain → ∃ g, i = .setGain g) ∧
    (t.fc ≠ s.fc ∨ t.acc ≠ s.acc ∨ t.fifo.buf ≠ s.fifo.buf ∨ t.fifo.wHead ≠ s.fifo.wHead → i = .tick) ∧
    (t.fifo.rHead ≠ s.fifo.rHead ∨ t.chunks ≠ s.chunks → i = .pop) ∧
    (t.fifo.fill ≠ s.fifo.fill → i = .tick ∨ i = .pop) ∧
    (t.reads ≠ s.reads → ∃ a, i = .read a) ∧
    (t.marks ≠ s.marks → ∃ g, i = .setGain g ∧ f64IsFinite g = false) ∧ t.stream = s.stream

/-- The FIFO property, command by command: the samples returned and still buffered grow by exactly the sample of a TICK that has one
due and has room, and by nothing else; no sample is lost, duplicated or reordered (45_ring_buffer.md section 3; derived
there; log 3). -/
def Obligations.SampleHistoryGrowsOnlyByDueTicks : Prop :=
  ∀ (i : Instr) (s t : State), s.Inv → exec i s = .next t →
    (i = .tick → 1789773 ≤ s.acc + 96000 → s.fifo.fill ≤ 192000 - 2 →
      t.sampleHistory = s.sampleHistory ++ [mixSample t.p0.get t.p1.get t.tri.get t.noise.get s.gain]) ∧
    (i ≠ .tick ∨ s.acc + 96000 < 1789773 ∨ 192000 - 2 < s.fifo.fill → t.sampleHistory = s.sampleHistory)

/-- The FIFO property over executions: along any run the samples POP has returned only grow, and they are always the oldest part of
all samples ever pushed (45_ring_buffer.md section 3; derived there; log 1, log 3). -/
def Obligations.PoppedSamplesAreAPrefixOfPushedSamples : Prop :=
  ∀ (n : Nat) (s t : State), s.Inv → Sys2Proof.core.run n s = .next t →
    s.chunks <+: t.chunks ∧ s.sampleHistory <+: t.sampleHistory ∧ t.chunks.flatten <+: t.sampleHistory

/-- The sample and frame schedules over any number of ticks that find room: n ticks advance the accumulator by 96000 n modulo the chip
clock, push one sample for each time it passes, and move a frame counter below its mode's wrap n places around the mode's cycle (one at or
past the wrap is TickRunsFrameEventsClocksAndSchedule's; 44_chip_core.md sections 2 and 4; D16, D18; the stream of TICKs is
log 1's). -/
def Obligations.TickRunFollowsTheSampleSchedule : Prop :=
  ∀ (n : Nat) (s : State) (rest : List Command), s.Wf → s.marks.fault = false →
    s.stream = List.replicate n tickCommand ++ rest →
    s.fifo.fill + 2 * ((s.acc + 96000 * n) / 1789773) ≤ 192000 →
    ∃ t : State, Sys2Proof.core.run n s = .next t ∧ t.stream = rest ∧
      t.acc = (s.acc + 96000 * n) % 1789773 ∧
      t.fifo.fill = s.fifo.fill + 2 * ((s.acc + 96000 * n) / 1789773) ∧ t.reg = s.reg ∧
      (s.fc < (if (s.getReg 0x17#5).getLsbD 7 then 18641 else 14915) →
        t.fc = (s.fc + n) % (if (s.getReg 0x17#5).getLsbD 7 then 18641 else 14915))

/-! ### Assembler and construction -/

/-- PERIOD.P: its two writes leave the channel with exactly that period, its timer restarted there, and the length of its code
(30_encoding.md section 5; D8, D25, D26, D34). -/
def Obligations.PeriodPseudoInstructionSetsPeriodAndLength : Prop :=
  ∀ (k : PulseId) (p : BitVec 11) (l : BitVec 5) (s : State), ∃ i j s1 s2,
    expand (.periodP (if k = .p0 then 0 else 1) p.toNat l.toNat) = some [i, j] ∧
      exec i s = .next s1 ∧ exec j s1 = .next s2 ∧ (s2.pulse k).raw = p.toNat ∧
      (s2.pulse k).timer = ⟨p.toNat, p.toNat, (s.pulse k).timer.loop⟩ ∧
      (s2.pulse k).len.div.count = lengthOf l ∧ (s2.pulse k).seq = (s.pulse k).seq

/-- The note period is the integer nearest to `CHIP_CLOCK_HZ / (divisor * f) - 1`, ties up (30_encoding.md section 5; D34). -/
def Obligations.NotePeriodIsTheNearestInteger : Prop :=
  ∀ (divisor : Nat) (f : Ratio), 0 < divisor → 0 < f.num → 0 < f.den →
    (divisor * f.num : Int) * (2 * notePeriod divisor f + 1) ≤ 2 * 1789773 * f.den ∧
      (2 * 1789773 * f.den : Int) < (divisor * f.num : Int) * (2 * notePeriod divisor f + 3)

/-- Construction accepts exactly the legal parameters, the rest yield no machine; and a number that is neither 0 nor 1 is no
pulse id. -/
def Obligations.ConstructionRefusesIllegalParameters : Prop :=
  (∀ p : Config.Params, constructParams p = some p ↔
    p.fifoCapacity % 2 = 0 ∧ p.fifoCapacity ≠ 0 ∧ 1 ≤ p.chunkSamples ∧ p.chunkSamples ≤ p.fifoCapacity / 2 ∧
      p.chipClockHz ≠ 0 ∧ p.sampleRate ≠ 0) ∧
  (∀ p : Config.Params, constructParams p = some p ∨ constructParams p = none) ∧
  pulseIdOf 0 = some .p0 ∧ pulseIdOf 1 = some .p1 ∧ ∀ k, 2 ≤ k → pulseIdOf k = none
end

