-- ==== Sys2Proof/Laws/State.lean ====
section
/-! SUPPORT. One lemma per field per update of the state, and the register file's read-after-write laws. -/

namespace Sys2Proof.Machine

@[simp] theorem State.setReg_reg (s : State) (i : RegIndex) (v : Byte) : (s.setReg i v).reg = s.reg.set i.toFin v i.toFin.isLt := rfl
@[simp] theorem State.setReg_p0 (s : State) (i : RegIndex) (v : Byte) : (s.setReg i v).p0 = s.p0 := rfl
@[simp] theorem State.setReg_p1 (s : State) (i : RegIndex) (v : Byte) : (s.setReg i v).p1 = s.p1 := rfl
@[simp] theorem State.setReg_tri (s : State) (i : RegIndex) (v : Byte) : (s.setReg i v).tri = s.tri := rfl
@[simp] theorem State.setReg_noise (s : State) (i : RegIndex) (v : Byte) : (s.setReg i v).noise = s.noise := rfl
@[simp] theorem State.setReg_fc (s : State) (i : RegIndex) (v : Byte) : (s.setReg i v).fc = s.fc := rfl
@[simp] theorem State.setReg_acc (s : State) (i : RegIndex) (v : Byte) : (s.setReg i v).acc = s.acc := rfl
@[simp] theorem State.setReg_gain (s : State) (i : RegIndex) (v : Byte) : (s.setReg i v).gain = s.gain := rfl
@[simp] theorem State.setReg_fifo (s : State) (i : RegIndex) (v : Byte) : (s.setReg i v).fifo = s.fifo := rfl
@[simp] theorem State.setReg_marks (s : State) (i : RegIndex) (v : Byte) : (s.setReg i v).marks = s.marks := rfl
@[simp] theorem State.setReg_stream (s : State) (i : RegIndex) (v : Byte) : (s.setReg i v).stream = s.stream := rfl
@[simp] theorem State.setReg_reads (s : State) (i : RegIndex) (v : Byte) : (s.setReg i v).reads = s.reads := rfl
@[simp] theorem State.setReg_chunks (s : State) (i : RegIndex) (v : Byte) : (s.setReg i v).chunks = s.chunks := rfl

@[simp] theorem State.setPulse_p0_reg (s : State) (p : Pulse) : (s.setPulse .p0 p).reg = s.reg := rfl
@[simp] theorem State.setPulse_p0_p0 (s : State) (p : Pulse) : (s.setPulse .p0 p).p0 = p := rfl
@[simp] theorem State.setPulse_p0_p1 (s : State) (p : Pulse) : (s.setPulse .p0 p).p1 = s.p1 := rfl
@[simp] theorem State.setPulse_p0_tri (s : State) (p : Pulse) : (s.setPulse .p0 p).tri = s.tri := rfl
@[simp] theorem State.setPulse_p0_noise (s : State) (p : Pulse) : (s.setPulse .p0 p).noise = s.noise := rfl
@[simp] theorem State.setPulse_p0_fc (s : State) (p : Pulse) : (s.setPulse .p0 p).fc = s.fc := rfl
@[simp] theorem State.setPulse_p0_acc (s : State) (p : Pulse) : (s.setPulse .p0 p).acc = s.acc := rfl
@[simp] theorem State.setPulse_p0_gain (s : State) (p : Pulse) : (s.setPulse .p0 p).gain = s.gain := rfl
@[simp] theorem State.setPulse_p0_fifo (s : State) (p : Pulse) : (s.setPulse .p0 p).fifo = s.fifo := rfl
@[simp] theorem State.setPulse_p0_marks (s : State) (p : Pulse) : (s.setPulse .p0 p).marks = s.marks := rfl
@[simp] theorem State.setPulse_p0_stream (s : State) (p : Pulse) : (s.setPulse .p0 p).stream = s.stream := rfl
@[simp] theorem State.setPulse_p0_reads (s : State) (p : Pulse) : (s.setPulse .p0 p).reads = s.reads := rfl
@[simp] theorem State.setPulse_p0_chunks (s : State) (p : Pulse) : (s.setPulse .p0 p).chunks = s.chunks := rfl

@[simp] theorem State.setPulse_p1_reg (s : State) (p : Pulse) : (s.setPulse .p1 p).reg = s.reg := rfl
@[simp] theorem State.setPulse_p1_p0 (s : State) (p : Pulse) : (s.setPulse .p1 p).p0 = s.p0 := rfl
@[simp] theorem State.setPulse_p1_p1 (s : State) (p : Pulse) : (s.setPulse .p1 p).p1 = p := rfl
@[simp] theorem State.setPulse_p1_tri (s : State) (p : Pulse) : (s.setPulse .p1 p).tri = s.tri := rfl
@[simp] theorem State.setPulse_p1_noise (s : State) (p : Pulse) : (s.setPulse .p1 p).noise = s.noise := rfl
@[simp] theorem State.setPulse_p1_fc (s : State) (p : Pulse) : (s.setPulse .p1 p).fc = s.fc := rfl
@[simp] theorem State.setPulse_p1_acc (s : State) (p : Pulse) : (s.setPulse .p1 p).acc = s.acc := rfl
@[simp] theorem State.setPulse_p1_gain (s : State) (p : Pulse) : (s.setPulse .p1 p).gain = s.gain := rfl
@[simp] theorem State.setPulse_p1_fifo (s : State) (p : Pulse) : (s.setPulse .p1 p).fifo = s.fifo := rfl
@[simp] theorem State.setPulse_p1_marks (s : State) (p : Pulse) : (s.setPulse .p1 p).marks = s.marks := rfl
@[simp] theorem State.setPulse_p1_stream (s : State) (p : Pulse) : (s.setPulse .p1 p).stream = s.stream := rfl
@[simp] theorem State.setPulse_p1_reads (s : State) (p : Pulse) : (s.setPulse .p1 p).reads = s.reads := rfl
@[simp] theorem State.setPulse_p1_chunks (s : State) (p : Pulse) : (s.setPulse .p1 p).chunks = s.chunks := rfl

@[simp] theorem State.refuse_reg (s : State) (r : RefusalRecord) : (s.refuse r).reg = s.reg := rfl
@[simp] theorem State.refuse_p0 (s : State) (r : RefusalRecord) : (s.refuse r).p0 = s.p0 := rfl
@[simp] theorem State.refuse_p1 (s : State) (r : RefusalRecord) : (s.refuse r).p1 = s.p1 := rfl
@[simp] theorem State.refuse_tri (s : State) (r : RefusalRecord) : (s.refuse r).tri = s.tri := rfl
@[simp] theorem State.refuse_noise (s : State) (r : RefusalRecord) : (s.refuse r).noise = s.noise := rfl
@[simp] theorem State.refuse_fc (s : State) (r : RefusalRecord) : (s.refuse r).fc = s.fc := rfl
@[simp] theorem State.refuse_acc (s : State) (r : RefusalRecord) : (s.refuse r).acc = s.acc := rfl
@[simp] theorem State.refuse_gain (s : State) (r : RefusalRecord) : (s.refuse r).gain = s.gain := rfl
@[simp] theorem State.refuse_fifo (s : State) (r : RefusalRecord) : (s.refuse r).fifo = s.fifo := rfl
@[simp] theorem State.refuse_marks (s : State) (r : RefusalRecord) : (s.refuse r).marks = { s.marks with refused := true, refusals := s.marks.refusals ++ [r] } := rfl
@[simp] theorem State.refuse_stream (s : State) (r : RefusalRecord) : (s.refuse r).stream = s.stream := rfl
@[simp] theorem State.refuse_reads (s : State) (r : RefusalRecord) : (s.refuse r).reads = s.reads := rfl
@[simp] theorem State.refuse_chunks (s : State) (r : RefusalRecord) : (s.refuse r).chunks = s.chunks := rfl

@[simp] theorem State.markFault_reg (s : State) : (s.markFault).reg = s.reg := rfl
@[simp] theorem State.markFault_p0 (s : State) : (s.markFault).p0 = s.p0 := rfl
@[simp] theorem State.markFault_p1 (s : State) : (s.markFault).p1 = s.p1 := rfl
@[simp] theorem State.markFault_tri (s : State) : (s.markFault).tri = s.tri := rfl
@[simp] theorem State.markFault_noise (s : State) : (s.markFault).noise = s.noise := rfl
@[simp] theorem State.markFault_fc (s : State) : (s.markFault).fc = s.fc := rfl
@[simp] theorem State.markFault_acc (s : State) : (s.markFault).acc = s.acc := rfl
@[simp] theorem State.markFault_gain (s : State) : (s.markFault).gain = s.gain := rfl
@[simp] theorem State.markFault_fifo (s : State) : (s.markFault).fifo = s.fifo := rfl
@[simp] theorem State.markFault_marks (s : State) : (s.markFault).marks = { s.marks with fault := true } := rfl
@[simp] theorem State.markFault_stream (s : State) : (s.markFault).stream = s.stream := rfl
@[simp] theorem State.markFault_reads (s : State) : (s.markFault).reads = s.reads := rfl
@[simp] theorem State.markFault_chunks (s : State) : (s.markFault).chunks = s.chunks := rfl

@[simp] theorem State.takeCommand_reg (s : State) : (s.takeCommand).reg = s.reg := rfl
@[simp] theorem State.takeCommand_p0 (s : State) : (s.takeCommand).p0 = s.p0 := rfl
@[simp] theorem State.takeCommand_p1 (s : State) : (s.takeCommand).p1 = s.p1 := rfl
@[simp] theorem State.takeCommand_tri (s : State) : (s.takeCommand).tri = s.tri := rfl
@[simp] theorem State.takeCommand_noise (s : State) : (s.takeCommand).noise = s.noise := rfl
@[simp] theorem State.takeCommand_fc (s : State) : (s.takeCommand).fc = s.fc := rfl
@[simp] theorem State.takeCommand_acc (s : State) : (s.takeCommand).acc = s.acc := rfl
@[simp] theorem State.takeCommand_gain (s : State) : (s.takeCommand).gain = s.gain := rfl
@[simp] theorem State.takeCommand_fifo (s : State) : (s.takeCommand).fifo = s.fifo := rfl
@[simp] theorem State.takeCommand_marks (s : State) : (s.takeCommand).marks = s.marks := rfl
@[simp] theorem State.takeCommand_stream (s : State) : (s.takeCommand).stream = s.stream.tail := rfl
@[simp] theorem State.takeCommand_reads (s : State) : (s.takeCommand).reads = s.reads := rfl
@[simp] theorem State.takeCommand_chunks (s : State) : (s.takeCommand).chunks = s.chunks := rfl

@[simp] theorem State.quarterFrame_reg (s : State) : (s.quarterFrame).reg = s.reg := rfl
@[simp] theorem State.quarterFrame_p0 (s : State) : (s.quarterFrame).p0 = s.p0.quarter := rfl
@[simp] theorem State.quarterFrame_p1 (s : State) : (s.quarterFrame).p1 = s.p1.quarter := rfl
@[simp] theorem State.quarterFrame_tri (s : State) : (s.quarterFrame).tri = s.tri.quarter := rfl
@[simp] theorem State.quarterFrame_noise (s : State) : (s.quarterFrame).noise = s.noise.quarter := rfl
@[simp] theorem State.quarterFrame_fc (s : State) : (s.quarterFrame).fc = s.fc := rfl
@[simp] theorem State.quarterFrame_acc (s : State) : (s.quarterFrame).acc = s.acc := rfl
@[simp] theorem State.quarterFrame_gain (s : State) : (s.quarterFrame).gain = s.gain := rfl
@[simp] theorem State.quarterFrame_fifo (s : State) : (s.quarterFrame).fifo = s.fifo := rfl
@[simp] theorem State.quarterFrame_marks (s : State) : (s.quarterFrame).marks = s.marks := rfl
@[simp] theorem State.quarterFrame_stream (s : State) : (s.quarterFrame).stream = s.stream := rfl
@[simp] theorem State.quarterFrame_reads (s : State) : (s.quarterFrame).reads = s.reads := rfl
@[simp] theorem State.quarterFrame_chunks (s : State) : (s.quarterFrame).chunks = s.chunks := rfl

@[simp] theorem State.halfFrame_reg (s : State) : (s.halfFrame).reg = s.reg := rfl
@[simp] theorem State.halfFrame_p0 (s : State) : (s.halfFrame).p0 = s.p0.half .p0 := rfl
@[simp] theorem State.halfFrame_p1 (s : State) : (s.halfFrame).p1 = s.p1.half .p1 := rfl
@[simp] theorem State.halfFrame_tri (s : State) : (s.halfFrame).tri = s.tri.half := rfl
@[simp] theorem State.halfFrame_noise (s : State) : (s.halfFrame).noise = s.noise.half := rfl
@[simp] theorem State.halfFrame_fc (s : State) : (s.halfFrame).fc = s.fc := rfl
@[simp] theorem State.halfFrame_acc (s : State) : (s.halfFrame).acc = s.acc := rfl
@[simp] theorem State.halfFrame_gain (s : State) : (s.halfFrame).gain = s.gain := rfl
@[simp] theorem State.halfFrame_fifo (s : State) : (s.halfFrame).fifo = s.fifo := rfl
@[simp] theorem State.halfFrame_marks (s : State) : (s.halfFrame).marks = s.marks := rfl
@[simp] theorem State.halfFrame_stream (s : State) : (s.halfFrame).stream = s.stream := rfl
@[simp] theorem State.halfFrame_reads (s : State) : (s.halfFrame).reads = s.reads := rfl
@[simp] theorem State.halfFrame_chunks (s : State) : (s.halfFrame).chunks = s.chunks := rfl

@[simp] theorem State.clockChannels_reg (s : State) : (s.clockChannels).reg = s.reg := rfl
@[simp] theorem State.clockChannels_p0 (s : State) : (s.clockChannels).p0 = s.p0.clock := rfl
@[simp] theorem State.clockChannels_p1 (s : State) : (s.clockChannels).p1 = s.p1.clock := rfl
@[simp] theorem State.clockChannels_tri (s : State) : (s.clockChannels).tri = s.tri.clock := rfl
@[simp] theorem State.clockChannels_noise (s : State) : (s.clockChannels).noise = s.noise.clock := rfl
@[simp] theorem State.clockChannels_fc (s : State) : (s.clockChannels).fc = s.fc := rfl
@[simp] theorem State.clockChannels_acc (s : State) : (s.clockChannels).acc = s.acc := rfl
@[simp] theorem State.clockChannels_gain (s : State) : (s.clockChannels).gain = s.gain := rfl
@[simp] theorem State.clockChannels_fifo (s : State) : (s.clockChannels).fifo = s.fifo := rfl
@[simp] theorem State.clockChannels_marks (s : State) : (s.clockChannels).marks = s.marks := rfl
@[simp] theorem State.clockChannels_stream (s : State) : (s.clockChannels).stream = s.stream := rfl
@[simp] theorem State.clockChannels_reads (s : State) : (s.clockChannels).reads = s.reads := rfl
@[simp] theorem State.clockChannels_chunks (s : State) : (s.clockChannels).chunks = s.chunks := rfl

@[simp] theorem State.advanceFrame_reg (s : State) (m : Bool) : (s.advanceFrame m).reg = s.reg := rfl
@[simp] theorem State.advanceFrame_p0 (s : State) (m : Bool) : (s.advanceFrame m).p0 = s.p0 := rfl
@[simp] theorem State.advanceFrame_p1 (s : State) (m : Bool) : (s.advanceFrame m).p1 = s.p1 := rfl
@[simp] theorem State.advanceFrame_tri (s : State) (m : Bool) : (s.advanceFrame m).tri = s.tri := rfl
@[simp] theorem State.advanceFrame_noise (s : State) (m : Bool) : (s.advanceFrame m).noise = s.noise := rfl
@[simp] theorem State.advanceFrame_fc (s : State) (m : Bool) : (s.advanceFrame m).fc = if frameWrap m ≤ s.fc + 1 then 0 else s.fc + 1 := rfl
@[simp] theorem State.advanceFrame_acc (s : State) (m : Bool) : (s.advanceFrame m).acc = s.acc := rfl
@[simp] theorem State.advanceFrame_gain (s : State) (m : Bool) : (s.advanceFrame m).gain = s.gain := rfl
@[simp] theorem State.advanceFrame_fifo (s : State) (m : Bool) : (s.advanceFrame m).fifo = s.fifo := rfl
@[simp] theorem State.advanceFrame_marks (s : State) (m : Bool) : (s.advanceFrame m).marks = s.marks := rfl
@[simp] theorem State.advanceFrame_stream (s : State) (m : Bool) : (s.advanceFrame m).stream = s.stream := rfl
@[simp] theorem State.advanceFrame_reads (s : State) (m : Bool) : (s.advanceFrame m).reads = s.reads := rfl
@[simp] theorem State.advanceFrame_chunks (s : State) (m : Bool) : (s.advanceFrame m).chunks = s.chunks := rfl

@[simp] theorem State.writeEnables_reg (d : Byte) (s : State) : (writeEnables d s).reg = s.reg.set 0x15 d := rfl
@[simp] theorem State.writeEnables_p0 (d : Byte) (s : State) : (writeEnables d s).p0 = { s.p0 with enabled := fEnablePulse .p0 d } := rfl
@[simp] theorem State.writeEnables_p1 (d : Byte) (s : State) : (writeEnables d s).p1 = { s.p1 with enabled := fEnablePulse .p1 d } := rfl
@[simp] theorem State.writeEnables_tri (d : Byte) (s : State) : (writeEnables d s).tri = { s.tri with enabled := fEnableTri d } := rfl
@[simp] theorem State.writeEnables_noise (d : Byte) (s : State) : (writeEnables d s).noise = { s.noise with enabled := fEnableNoise d } := rfl
@[simp] theorem State.writeEnables_fc (d : Byte) (s : State) : (writeEnables d s).fc = s.fc := rfl
@[simp] theorem State.writeEnables_acc (d : Byte) (s : State) : (writeEnables d s).acc = s.acc := rfl
@[simp] theorem State.writeEnables_gain (d : Byte) (s : State) : (writeEnables d s).gain = s.gain := rfl
@[simp] theorem State.writeEnables_fifo (d : Byte) (s : State) : (writeEnables d s).fifo = s.fifo := rfl
@[simp] theorem State.writeEnables_marks (d : Byte) (s : State) : (writeEnables d s).marks = s.marks := rfl
@[simp] theorem State.writeEnables_stream (d : Byte) (s : State) : (writeEnables d s).stream = s.stream := rfl
@[simp] theorem State.writeEnables_reads (d : Byte) (s : State) : (writeEnables d s).reads = s.reads := rfl
@[simp] theorem State.writeEnables_chunks (d : Byte) (s : State) : (writeEnables d s).chunks = s.chunks := rfl

@[simp] theorem State.withFetchWord_reg (s : State) (nbits w : Nat) : (s.withFetchWord nbits w).reg = s.reg := rfl
@[simp] theorem State.withFetchWord_p0 (s : State) (nbits w : Nat) : (s.withFetchWord nbits w).p0 = s.p0 := rfl
@[simp] theorem State.withFetchWord_p1 (s : State) (nbits w : Nat) : (s.withFetchWord nbits w).p1 = s.p1 := rfl
@[simp] theorem State.withFetchWord_tri (s : State) (nbits w : Nat) : (s.withFetchWord nbits w).tri = s.tri := rfl
@[simp] theorem State.withFetchWord_noise (s : State) (nbits w : Nat) : (s.withFetchWord nbits w).noise = s.noise := rfl
@[simp] theorem State.withFetchWord_fc (s : State) (nbits w : Nat) : (s.withFetchWord nbits w).fc = s.fc := rfl
@[simp] theorem State.withFetchWord_acc (s : State) (nbits w : Nat) : (s.withFetchWord nbits w).acc = s.acc := rfl
@[simp] theorem State.withFetchWord_gain (s : State) (nbits w : Nat) : (s.withFetchWord nbits w).gain = s.gain := rfl
@[simp] theorem State.withFetchWord_fifo (s : State) (nbits w : Nat) : (s.withFetchWord nbits w).fifo = s.fifo := rfl
@[simp] theorem State.withFetchWord_marks (s : State) (nbits w : Nat) : (s.withFetchWord nbits w).marks = s.marks := rfl
@[simp] theorem State.withFetchWord_stream (s : State) (nbits w : Nat) : (s.withFetchWord nbits w).stream = ⟨BitVec.ofNat 16 (w % 2 ^ nbits), 0#64⟩ :: s.stream := rfl
@[simp] theorem State.withFetchWord_reads (s : State) (nbits w : Nat) : (s.withFetchWord nbits w).reads = s.reads := rfl
@[simp] theorem State.withFetchWord_chunks (s : State) (nbits w : Nat) : (s.withFetchWord nbits w).chunks = s.chunks := rfl

@[simp] theorem State.frameEvents_reg (s : State) (ev : Bool × Bool) : (s.frameEvents ev).reg = s.reg := by
  simp only [State.frameEvents]; split <;> split <;> rfl
theorem State.frameEvents_p0 (s : State) (ev : Bool × Bool) : (s.frameEvents ev).p0 =
    (if ev.2 then (if ev.1 then s.p0.quarter else s.p0).half .p0 else if ev.1 then s.p0.quarter else s.p0) := by
  simp only [State.frameEvents]; split <;> split <;> rfl
theorem State.frameEvents_p1 (s : State) (ev : Bool × Bool) : (s.frameEvents ev).p1 =
    (if ev.2 then (if ev.1 then s.p1.quarter else s.p1).half .p1 else if ev.1 then s.p1.quarter else s.p1) := by
  simp only [State.frameEvents]; split <;> split <;> rfl
theorem State.frameEvents_tri (s : State) (ev : Bool × Bool) : (s.frameEvents ev).tri =
    (if ev.2 then (if ev.1 then s.tri.quarter else s.tri).half else if ev.1 then s.tri.quarter else s.tri) := by
  simp only [State.frameEvents]; split <;> split <;> rfl
theorem State.frameEvents_noise (s : State) (ev : Bool × Bool) : (s.frameEvents ev).noise =
    (if ev.2 then (if ev.1 then s.noise.quarter else s.noise).half else if ev.1 then s.noise.quarter else s.noise) := by
  simp only [State.frameEvents]; split <;> split <;> rfl
@[simp] theorem State.frameEvents_fc (s : State) (ev : Bool × Bool) : (s.frameEvents ev).fc = s.fc := by
  simp only [State.frameEvents]; split <;> split <;> rfl
@[simp] theorem State.frameEvents_acc (s : State) (ev : Bool × Bool) : (s.frameEvents ev).acc = s.acc := by
  simp only [State.frameEvents]; split <;> split <;> rfl
@[simp] theorem State.frameEvents_gain (s : State) (ev : Bool × Bool) : (s.frameEvents ev).gain = s.gain := by
  simp only [State.frameEvents]; split <;> split <;> rfl
@[simp] theorem State.frameEvents_fifo (s : State) (ev : Bool × Bool) : (s.frameEvents ev).fifo = s.fifo := by
  simp only [State.frameEvents]; split <;> split <;> rfl
@[simp] theorem State.frameEvents_marks (s : State) (ev : Bool × Bool) : (s.frameEvents ev).marks = s.marks := by
  simp only [State.frameEvents]; split <;> split <;> rfl
@[simp] theorem State.frameEvents_stream (s : State) (ev : Bool × Bool) : (s.frameEvents ev).stream = s.stream := by
  simp only [State.frameEvents]; split <;> split <;> rfl
@[simp] theorem State.frameEvents_reads (s : State) (ev : Bool × Bool) : (s.frameEvents ev).reads = s.reads := by
  simp only [State.frameEvents]; split <;> split <;> rfl
@[simp] theorem State.frameEvents_chunks (s : State) (ev : Bool × Bool) : (s.frameEvents ev).chunks = s.chunks := by
  simp only [State.frameEvents]; split <;> split <;> rfl

@[simp] theorem State.produceSample_reg (s : State) : s.produceSample.reg = s.reg := by
  simp only [State.produceSample]; split <;> rfl
@[simp] theorem State.produceSample_p0 (s : State) : s.produceSample.p0 = s.p0 := by
  simp only [State.produceSample]; split <;> rfl
@[simp] theorem State.produceSample_p1 (s : State) : s.produceSample.p1 = s.p1 := by
  simp only [State.produceSample]; split <;> rfl
@[simp] theorem State.produceSample_tri (s : State) : s.produceSample.tri = s.tri := by
  simp only [State.produceSample]; split <;> rfl
@[simp] theorem State.produceSample_noise (s : State) : s.produceSample.noise = s.noise := by
  simp only [State.produceSample]; split <;> rfl
@[simp] theorem State.produceSample_fc (s : State) : s.produceSample.fc = s.fc := by
  simp only [State.produceSample]; split <;> rfl
@[simp] theorem State.produceSample_gain (s : State) : s.produceSample.gain = s.gain := by
  simp only [State.produceSample]; split <;> rfl
@[simp] theorem State.produceSample_marks (s : State) : s.produceSample.marks = s.marks := by
  simp only [State.produceSample]; split <;> rfl
@[simp] theorem State.produceSample_stream (s : State) : s.produceSample.stream = s.stream := by
  simp only [State.produceSample]; split <;> rfl
@[simp] theorem State.produceSample_reads (s : State) : s.produceSample.reads = s.reads := by
  simp only [State.produceSample]; split <;> rfl
@[simp] theorem State.produceSample_chunks (s : State) : s.produceSample.chunks = s.chunks := by
  simp only [State.produceSample]; split <;> rfl

/-- Reading a register after writing it gives the byte written; every other register is left alone (R8, R14). -/
theorem State.getReg_setReg (s : State) (i j : RegIndex) (v : Byte) :
    (s.setReg i v).getReg j = if j = i then v else s.getReg j := by
  simp only [State.getReg, State.setReg, Vector.get_eq_getElem, Vector.getElem_set]
  by_cases h : j = i
  · simp [h]
  · have h' : ¬ i.toNat = j.toNat := fun e => h (BitVec.eq_of_toNat_eq e.symm)
    simp [h, h']

@[simp] theorem State.getReg_setReg_same (s : State) (i : RegIndex) (v : Byte) : (s.setReg i v).getReg i = v := by
  simp [State.getReg_setReg]

theorem State.getReg_setReg_other (s : State) (i j : RegIndex) (v : Byte) (h : j ≠ i) :
    (s.setReg i v).getReg j = s.getReg j := by
  simp [State.getReg_setReg, h]

/-- Two states with the same register file read the same bytes. -/
theorem State.getReg_congr {s t : State} (h : t.reg = s.reg) (i : RegIndex) : t.getReg i = s.getReg i := by
  simp [State.getReg, h]

/-- Two states with the same register file are in the same frame mode (R114). -/
theorem State.mode5_congr {s t : State} (h : t.reg = s.reg) : t.mode5 = s.mode5 := by
  simp [State.mode5, State.getReg_congr h]

@[simp] theorem State.pulse_p0 (s : State) : s.pulse .p0 = s.p0 := rfl

@[simp] theorem State.pulse_p1 (s : State) : s.pulse .p1 = s.p1 := rfl

@[simp] theorem State.pulse_setPulse_same (s : State) (k : PulseId) (p : Pulse) : (s.setPulse k p).pulse k = p := by
  cases k <;> rfl

theorem State.pulse_setPulse_other (s : State) (k j : PulseId) (p : Pulse) (h : j ≠ k) :
    (s.setPulse k p).pulse j = s.pulse j := by
  cases k <;> cases j <;> first | rfl | exact absurd rfl h

@[simp] theorem State.setPulse_reg (s : State) (k : PulseId) (p : Pulse) : (s.setPulse k p).reg = s.reg := by cases k <;> rfl
@[simp] theorem State.setPulse_tri (s : State) (k : PulseId) (p : Pulse) : (s.setPulse k p).tri = s.tri := by cases k <;> rfl
@[simp] theorem State.setPulse_noise (s : State) (k : PulseId) (p : Pulse) : (s.setPulse k p).noise = s.noise := by cases k <;> rfl
@[simp] theorem State.setPulse_fc (s : State) (k : PulseId) (p : Pulse) : (s.setPulse k p).fc = s.fc := by cases k <;> rfl
@[simp] theorem State.setPulse_acc (s : State) (k : PulseId) (p : Pulse) : (s.setPulse k p).acc = s.acc := by cases k <;> rfl
@[simp] theorem State.setPulse_gain (s : State) (k : PulseId) (p : Pulse) : (s.setPulse k p).gain = s.gain := by cases k <;> rfl
@[simp] theorem State.setPulse_fifo (s : State) (k : PulseId) (p : Pulse) : (s.setPulse k p).fifo = s.fifo := by cases k <;> rfl
@[simp] theorem State.setPulse_marks (s : State) (k : PulseId) (p : Pulse) : (s.setPulse k p).marks = s.marks := by cases k <;> rfl
@[simp] theorem State.setPulse_stream (s : State) (k : PulseId) (p : Pulse) : (s.setPulse k p).stream = s.stream := by cases k <;> rfl
@[simp] theorem State.setPulse_reads (s : State) (k : PulseId) (p : Pulse) : (s.setPulse k p).reads = s.reads := by cases k <;> rfl
@[simp] theorem State.setPulse_chunks (s : State) (k : PulseId) (p : Pulse) : (s.setPulse k p).chunks = s.chunks := by cases k <;> rfl

@[simp] theorem State.getReg_setPulse (s : State) (k : PulseId) (p : Pulse) (i : RegIndex) :
    (s.setPulse k p).getReg i = s.getReg i := State.getReg_congr (State.setPulse_reg s k p) i

end Sys2Proof.Machine
end

