-- ==== Sys2Proof/Laws/Dispatch.lean ====
section
/-! SUPPORT. The dispatch: what `exec` is on each command, the address to action table, and what one step is. -/

namespace Sys2Proof.Machine

@[simp] theorem exec_w4000 (d : Byte) (s : State) : exec (.w4000 d) s = .next (writePulseControl .p0 d s) := rfl
@[simp] theorem exec_w4001 (d : Byte) (s : State) : exec (.w4001 d) s = .next (writePulseSweep .p0 d s) := rfl
@[simp] theorem exec_w4002 (d : Byte) (s : State) : exec (.w4002 d) s = .next (writePulseLow .p0 d s) := rfl
@[simp] theorem exec_w4003 (d : Byte) (s : State) : exec (.w4003 d) s = .next (writePulseHigh .p0 d s) := rfl
@[simp] theorem exec_w4004 (d : Byte) (s : State) : exec (.w4004 d) s = .next (writePulseControl .p1 d s) := rfl
@[simp] theorem exec_w4005 (d : Byte) (s : State) : exec (.w4005 d) s = .next (writePulseSweep .p1 d s) := rfl
@[simp] theorem exec_w4006 (d : Byte) (s : State) : exec (.w4006 d) s = .next (writePulseLow .p1 d s) := rfl
@[simp] theorem exec_w4007 (d : Byte) (s : State) : exec (.w4007 d) s = .next (writePulseHigh .p1 d s) := rfl
@[simp] theorem exec_w4008 (d : Byte) (s : State) : exec (.w4008 d) s = .next (writeTriControl d s) := rfl
@[simp] theorem exec_w4009 (d : Byte) (s : State) : exec (.w4009 d) s = .next (s.setReg 0x09#5 d) := rfl
@[simp] theorem exec_w400A (d : Byte) (s : State) : exec (.w400A d) s = .next (writeTriLow d s) := rfl
@[simp] theorem exec_w400B (d : Byte) (s : State) : exec (.w400B d) s = .next (writeTriHigh d s) := rfl
@[simp] theorem exec_w400C (d : Byte) (s : State) : exec (.w400C d) s = .next (writeNoiseControl d s) := rfl
@[simp] theorem exec_w400D (d : Byte) (s : State) : exec (.w400D d) s = .next (s.setReg 0x0D#5 d) := rfl
@[simp] theorem exec_w400E (d : Byte) (s : State) : exec (.w400E d) s = .next (writeNoisePeriod d s) := rfl
@[simp] theorem exec_w400F (d : Byte) (s : State) : exec (.w400F d) s = .next (writeNoiseLength d s) := rfl
@[simp] theorem exec_w4010 (d : Byte) (s : State) : exec (.w4010 d) s = .next (s.setReg 0x10#5 d) := rfl
@[simp] theorem exec_w4011 (d : Byte) (s : State) : exec (.w4011 d) s = .next (s.setReg 0x11#5 d) := rfl
@[simp] theorem exec_w4012 (d : Byte) (s : State) : exec (.w4012 d) s = .next (s.setReg 0x12#5 d) := rfl
@[simp] theorem exec_w4013 (d : Byte) (s : State) : exec (.w4013 d) s = .next (s.setReg 0x13#5 d) := rfl
@[simp] theorem exec_w4014 (d : Byte) (s : State) : exec (.w4014 d) s = .next (s.setReg 0x14#5 d) := rfl
@[simp] theorem exec_w4015 (d : Byte) (s : State) : exec (.w4015 d) s = .next (writeEnables d s) := rfl
@[simp] theorem exec_w4016 (d : Byte) (s : State) : exec (.w4016 d) s = .next (s.setReg 0x16#5 d) := rfl
@[simp] theorem exec_w4017 (d : Byte) (s : State) : exec (.w4017 d) s = .next (s.setReg 0x17#5 d) := rfl
@[simp] theorem exec_w4018 (d : Byte) (s : State) : exec (.w4018 d) s = .next (s.setReg 0x18#5 d) := rfl
@[simp] theorem exec_w4019 (d : Byte) (s : State) : exec (.w4019 d) s = .next (s.setReg 0x19#5 d) := rfl
@[simp] theorem exec_w401A (d : Byte) (s : State) : exec (.w401A d) s = .next (s.setReg 0x1A#5 d) := rfl
@[simp] theorem exec_w401B (d : Byte) (s : State) : exec (.w401B d) s = .next (s.setReg 0x1B#5 d) := rfl
@[simp] theorem exec_w401C (d : Byte) (s : State) : exec (.w401C d) s = .next (s.setReg 0x1C#5 d) := rfl
@[simp] theorem exec_w401D (d : Byte) (s : State) : exec (.w401D d) s = .next (s.setReg 0x1D#5 d) := rfl
@[simp] theorem exec_w401E (d : Byte) (s : State) : exec (.w401E d) s = .next (s.setReg 0x1E#5 d) := rfl
@[simp] theorem exec_w401F (d : Byte) (s : State) : exec (.w401F d) s = .next (s.setReg 0x1F#5 d) := rfl
@[simp] theorem exec_writeFlag (a : RegIndex) (b : BitVec 3) (v : Bool) (s : State) :
    exec (.writeFlag a b v) s = writeDispatch a (flagByte (s.getReg a) b v) s := rfl
@[simp] theorem exec_read (a : RegIndex) (s : State) : exec (.read a) s = .next { s with reads := s.reads ++ [s.getReg a] } := rfl
@[simp] theorem exec_tick (s : State) : exec .tick s = .next (if s.tickHolds then s else s.tickBody) := rfl
@[simp] theorem exec_pop (s : State) : exec .pop s = .next (popChunk Config.chunkSamples s) := rfl
theorem exec_setGain (g : F64) (s : State) : exec (.setGain g) s =
    if f64IsNaN g || f64IsInf g then .next (s.refuse (.nonFiniteGain g)) else .next { s with gain := g } := rfl

/-- A case for each of the 32 addresses. -/
theorem regIndex_cases {P : RegIndex → Prop} (h : ∀ n : Fin 32, P (BitVec.ofFin n)) (a : RegIndex) : P a := h a.toFin

/-- The action that WRITE dispatches to is the meaning of that address's own command (R106, R107). -/
theorem writeDispatch_eq_exec (a : RegIndex) (d : Byte) (s : State) : writeDispatch a d s = exec (writeAt a d) s := by
  refine regIndex_cases (P := fun a => writeDispatch a d s = exec (writeAt a d) s) (fun n => ?_) a
  fin_cases n <;> rfl

/-- Every WRITE completes and stores its byte before anything else (R106): the register file after it. -/
theorem writeDispatch_reg (a : RegIndex) (d : Byte) (s : State) :
    ∃ t, writeDispatch a d s = .next t ∧ t.reg = (s.setReg a d).reg := by
  refine regIndex_cases (P := fun a => ∃ t, writeDispatch a d s = .next t ∧ t.reg = (s.setReg a d).reg) (fun n => ?_) a
  fin_cases n <;> exact ⟨_, rfl, rfl⟩

/-- What no WRITE touches: the frame counter, the accumulator, the gain, the ring buffer, the marks and the outside
interface (R38, R40). -/
theorem writeDispatch_frame (a : RegIndex) (d : Byte) (s t : State) (h : writeDispatch a d s = .next t) :
    t.fc = s.fc ∧ t.acc = s.acc ∧ t.gain = s.gain ∧ t.fifo = s.fifo ∧ t.marks = s.marks ∧ t.stream = s.stream ∧
      t.reads = s.reads ∧ t.chunks = s.chunks := by
  revert h
  refine regIndex_cases (P := fun a => writeDispatch a d s = .next t → _) (fun n => ?_) a
  fin_cases n <;> (intro h; cases h; exact ⟨rfl, rfl, rfl, rfl, rfl, rfl, rfl, rfl⟩)

/-- Every command of a table word completes: `exec` always answers a next state. -/
theorem exec_completes (i : Instr) (s : State) : ∃ t, exec i s = .next t := by
  cases i with
  | writeFlag a b v =>
    obtain ⟨t, h, -⟩ := writeDispatch_reg a (flagByte (s.getReg a) b v) s
    exact ⟨t, h⟩
  | setGain g =>
    rw [exec_setGain]
    split <;> exact ⟨_, rfl⟩
  | _ => exact ⟨_, rfl⟩

/-- A state is not broken exactly when the invariants hold (R134). -/
theorem State.broken_eq_false {s : State} : s.broken = false ↔ s.Wf :=
  decide_eq_false_iff_not.trans Decidable.not_not

theorem State.broken_eq_true {s : State} : s.broken = true ↔ ¬ s.Wf := decide_eq_true_iff

/-- One step, said once: what it can do by what is next (R131, R134; log 1, log 7). -/
theorem step_cases (s : State) :
    (s.stream = [] ∧ step s = .next s) ∨
      (∃ c rest, s.stream = c :: rest ∧
        ((s.marks.fault = true ∧ step s = .fault .stopped) ∨
          (s.marks.fault = false ∧ ¬ s.Wf ∧ step s = .next s.markFault) ∨
          (s.marks.fault = false ∧ s.Wf ∧ ∃ e, decode c = .error e ∧
            step s = .next (s.takeCommand.refuse (.undecodableWord c.word))) ∨
          (s.marks.fault = false ∧ s.Wf ∧ ∃ i, decode c = .ok i ∧ step s = exec i s.takeCommand))) := by
  cases hs : s.stream with
  | nil => exact .inl ⟨rfl, by simp [step, State.nextStep, hs]⟩
  | cons c rest =>
    refine .inr ⟨c, rest, rfl, ?_⟩
    cases hf : s.marks.fault with
    | true => exact .inl ⟨rfl, by simp [step, State.nextStep, hs, hf]⟩
    | false =>
      by_cases hw : s.Wf
      · have hb : s.broken = false := State.broken_eq_false.2 hw
        cases hd : decode c with
        | error e => exact .inr (.inr (.inl ⟨rfl, hw, e, rfl, by simp [step, State.nextStep, hs, hf, hb, hd]⟩))
        | ok i => exact .inr (.inr (.inr ⟨rfl, hw, i, rfl, by simp [step, State.nextStep, hs, hf, hb, hd]⟩))
      · have hb : s.broken = true := State.broken_eq_true.2 hw
        exact .inr (.inl ⟨rfl, hw, by simp [step, State.nextStep, hs, hf, hb]⟩)

end Sys2Proof.Machine
end

