-- ==== Sys2Proof/Laws/Encoding.lean ====
section
/-! SUPPORT. The fields of the encoder's words (R51 to R55). -/

namespace Sys2Proof

@[simp] theorem opField_writeWord (a : RegIndex) (d : Byte) : opField (writeWord a d) = 0#2 := by
  ext i hi
  simp only [opField, writeWord, BitVec.getElem_extractLsb', BitVec.getLsbD_append, BitVec.getLsbD_ofNat]
  interval_cases i <;> simp

@[simp] theorem indexHighBit_writeWord (a : RegIndex) (d : Byte) : indexHighBit (writeWord a d) = false := by
  simp only [indexHighBit, writeWord, BitVec.getLsbD_append, BitVec.getLsbD_ofNat]
  rfl

@[simp] theorem addrField_writeWord (a : RegIndex) (d : Byte) : addrField (writeWord a d) = a := by
  ext i hi
  simp only [addrField, writeWord, BitVec.getElem_extractLsb', BitVec.getLsbD_append, BitVec.getLsbD_ofNat]
  interval_cases i <;> rfl

@[simp] theorem dataField_writeWord (a : RegIndex) (d : Byte) : dataField (writeWord a d) = d := by
  ext i hi
  simp only [dataField, writeWord, BitVec.getElem_extractLsb', BitVec.getLsbD_append, BitVec.getLsbD_ofNat]
  interval_cases i <;> rfl

@[simp] theorem opField_flagWord (a : RegIndex) (b : BitVec 3) (v : Bool) : opField (flagWord a b v) = 1#2 := by
  ext i hi
  simp only [opField, flagWord, BitVec.getElem_extractLsb', BitVec.getLsbD_append, BitVec.getLsbD_ofNat]
  interval_cases i <;> (simp; rfl)

@[simp] theorem indexHighBit_flagWord (a : RegIndex) (b : BitVec 3) (v : Bool) : indexHighBit (flagWord a b v) = false := by
  simp only [indexHighBit, flagWord, BitVec.getLsbD_append, BitVec.getLsbD_ofNat]
  rfl

@[simp] theorem addrField_flagWord (a : RegIndex) (b : BitVec 3) (v : Bool) : addrField (flagWord a b v) = a := by
  ext i hi
  simp only [addrField, flagWord, BitVec.getElem_extractLsb', BitVec.getLsbD_append, BitVec.getLsbD_ofNat]
  interval_cases i <;> rfl

@[simp] theorem flagReserved_flagWord (a : RegIndex) (b : BitVec 3) (v : Bool) : flagReserved (flagWord a b v) = 0#4 := by
  ext i hi
  simp only [flagReserved, flagWord, BitVec.getElem_extractLsb', BitVec.getLsbD_append, BitVec.getLsbD_ofNat]
  interval_cases i <;> simp

@[simp] theorem bitField_flagWord (a : RegIndex) (b : BitVec 3) (v : Bool) : bitField (flagWord a b v) = b := by
  ext i hi
  simp only [bitField, flagWord, BitVec.getElem_extractLsb', BitVec.getLsbD_append, BitVec.getLsbD_ofNat]
  interval_cases i <;> rfl

@[simp] theorem valField_flagWord (a : RegIndex) (b : BitVec 3) (v : Bool) : valField (flagWord a b v) = v := by
  simp only [valField, flagWord, BitVec.getLsbD_append, BitVec.getLsbD_ofNat]
  simp

@[simp] theorem opField_readWord (a : RegIndex) : opField (readWord a) = 2#2 := by
  ext i hi
  simp only [opField, readWord, BitVec.getElem_extractLsb', BitVec.getLsbD_append, BitVec.getLsbD_ofNat]
  interval_cases i <;> (simp; rfl)

@[simp] theorem indexHighBit_readWord (a : RegIndex) : indexHighBit (readWord a) = false := by
  simp only [indexHighBit, readWord, BitVec.getLsbD_append, BitVec.getLsbD_ofNat]
  rfl

@[simp] theorem addrField_readWord (a : RegIndex) : addrField (readWord a) = a := by
  ext i hi
  simp only [addrField, readWord, BitVec.getElem_extractLsb', BitVec.getLsbD_append, BitVec.getLsbD_ofNat]
  interval_cases i <;> rfl

@[simp] theorem dataField_readWord (a : RegIndex) : dataField (readWord a) = 0#8 := by
  ext i hi
  simp only [dataField, readWord, BitVec.getElem_extractLsb', BitVec.getLsbD_append, BitVec.getLsbD_ofNat]
  interval_cases i <;> simp

@[simp] theorem opField_eventWord (e : BitVec 6) : opField (eventWord e) = 3#2 := by
  ext i hi
  simp only [opField, eventWord, BitVec.getElem_extractLsb', BitVec.getLsbD_append, BitVec.getLsbD_ofNat]
  interval_cases i <;> simp [Nat.testBit]

@[simp] theorem eventField_eventWord (e : BitVec 6) : eventField (eventWord e) = e := by
  ext i hi
  simp only [eventField, eventWord, BitVec.getElem_extractLsb', BitVec.getLsbD_append, BitVec.getLsbD_ofNat]
  interval_cases i <;> rfl

@[simp] theorem dataField_eventWord (e : BitVec 6) : dataField (eventWord e) = 0#8 := by
  ext i hi
  simp only [dataField, eventWord, BitVec.getElem_extractLsb', BitVec.getLsbD_append, BitVec.getLsbD_ofNat]
  interval_cases i <;> simp

/-- The checks of R59 in terms of a word's fields. -/
theorem wellFormed_iff (w : CmdWord) :
    w.wellFormed = true ↔
      (opField w = 3#2 ∨ indexHighBit w = false) ∧ (opField w ≠ 1#2 ∨ flagReserved w = 0#4) ∧
        (opField w ≠ 2#2 ∨ dataField w = 0#8) ∧ (opField w ≠ 3#2 ∨ dataField w = 0#8) ∧
        (opField w ≠ 3#2 ∨ (eventField w).toNat ≤ 2) := by
  simp only [CmdWord.wellFormed, CmdWord.indexInRange, CmdWord.flagReservedZero, CmdWord.readLowZero,
    CmdWord.eventLowZero, CmdWord.eventKnown, opField, indexHighBit, flagReserved, dataField, eventField,
    Bool.and_eq_true, Bool.or_eq_true, beq_iff_eq, bne_iff_ne, decide_eq_true_eq, and_assoc]

/-- A W word spells a command (R51). -/
theorem writeWord_wellFormed (a : RegIndex) (d : Byte) : (writeWord a d).wellFormed = true := by
  rw [wellFormed_iff]; simp

/-- A WF word spells a command (R52). -/
theorem flagWord_wellFormed (a : RegIndex) (b : BitVec 3) (v : Bool) : (flagWord a b v).wellFormed = true := by
  rw [wellFormed_iff]; simp

/-- An R word spells a command (R53). -/
theorem readWord_wellFormed (a : RegIndex) : (readWord a).wellFormed = true := by
  rw [wellFormed_iff]; simp

/-- An E word of a known event spells a command (R54). -/
theorem eventWord_wellFormed (e : BitVec 6) (h : e.toNat ≤ 2) : (eventWord e).wellFormed = true := by
  rw [wellFormed_iff]; simpa using h

end Sys2Proof
end

