-- ==== Sys2Proof/Laws/Float64.lean ====
section
/-! SUPPORT. Binary64: the fields of a packed value, the units of its magnitude bits, and what rounding to a whole number can
answer. -/

namespace Sys2Proof.Machine

/-- The sign of a packed value. -/
@[simp] theorem f64Neg_pack (b : Bool) (m : Nat) : f64Neg (f64Pack b m) = b := by
  rw [f64Neg, f64Pack, BitVec.getLsbD_append, if_neg (by decide)]
  cases b <;> rfl

/-- The number a packed value's 64 bits are. -/
theorem f64Pack_toNat (b : Bool) (m : Nat) (hm : m < 2 ^ 63) : (f64Pack b m).toNat = b.toNat * 2 ^ 63 + m := by
  have hlt : (BitVec.ofNat 63 m).toNat < 2 ^ 63 := (BitVec.ofNat 63 m).isLt
  rw [f64Pack, BitVec.toNat_append, Nat.shiftLeft_eq, Nat.mul_comm, ← Nat.two_pow_add_eq_or_of_lt hlt,
    BitVec.toNat_ofNat, Nat.mod_eq_of_lt hm, BitVec.toNat_ofBool, Nat.mul_comm]

/-- The exponent field of a packed value. -/
theorem f64Exp_pack (b : Bool) (m : Nat) (hm : m < 2 ^ 63) : f64Exp (f64Pack b m) = m / 2 ^ 52 := by
  rw [f64Exp, BitVec.extractLsb'_toNat, f64Pack_toNat b m hm, Nat.shiftRight_eq_div_pow]
  cases b <;> simp <;> omega

/-- The fraction field of a packed value. -/
theorem f64Frac_pack (b : Bool) (m : Nat) (hm : m < 2 ^ 63) : f64Frac (f64Pack b m) = m % 2 ^ 52 := by
  rw [f64Frac, BitVec.extractLsb'_toNat, f64Pack_toNat b m hm, Nat.shiftRight_eq_div_pow]
  cases b <;> (simp; try omega)

/-- The units that magnitude bits stand for. -/
def magUnits (m : Nat) : Nat := if m / 2 ^ 52 = 0 then m % 2 ^ 52 else (m % 2 ^ 52 + 2 ^ 52) * 2 ^ (m / 2 ^ 52 - 1)

/-- The units of a packed value are those of its magnitude bits, whatever the sign. -/
theorem f64Units_pack (b : Bool) (m : Nat) (hm : m < 2 ^ 63) : f64Units (f64Pack b m) = magUnits m := by
  rw [f64Units, f64Exp_pack b m hm, f64Frac_pack b m hm, magUnits]

/-- A significand and an exponent step give the units they should, a carry out of the significand included. -/
theorem magUnits_step (k sig : Nat) (hlo : 2 ^ 52 ≤ sig) (hhi : sig ≤ 2 ^ 53) :
    magUnits (k * 2 ^ 52 + sig) = sig * 2 ^ k := by
  rcases Nat.lt_or_ge sig (2 ^ 53) with h | h
  · have e1 : (k * 2 ^ 52 + sig) / 2 ^ 52 = k + 1 := by omega
    have e2 : (k * 2 ^ 52 + sig) % 2 ^ 52 = sig - 2 ^ 52 := by omega
    rw [magUnits, e1, e2, if_neg (by omega), Nat.sub_add_cancel hlo, Nat.add_sub_cancel]
  · have hs : sig = 2 ^ 53 := Nat.le_antisymm hhi h
    have e1 : (k * 2 ^ 52 + sig) / 2 ^ 52 = k + 2 := by omega
    have e2 : (k * 2 ^ 52 + sig) % 2 ^ 52 = 0 := by omega
    rw [magUnits, e1, e2, if_neg (by omega), hs, Nat.zero_add, show k + 2 - 1 = k + 1 from rfl, Nat.pow_succ 2 k]
    omega

/-- Below the smallest normal binade the units are the magnitude bits themselves. -/
theorem magUnits_small (m : Nat) (h : m ≤ 2 ^ 53) : magUnits m = m := by
  rcases Nat.lt_or_ge m (2 ^ 52) with h1 | h1
  · rw [magUnits, if_pos (by omega)]
    omega
  · have := magUnits_step 0 m h1 h
    simpa using this

/-- Rounding to a whole number answers the quotient or the next number. -/
theorem roundTiesEven_cases (n d : Nat) : roundTiesEven n d = n / d ∨ roundTiesEven n d = n / d + 1 := by
  simp only [roundTiesEven]
  split
  · exact .inl rfl
  · split
    · exact .inr rfl
    · rcases Nat.mod_two_eq_zero_or_one (n / d) with h | h
      · exact .inl (by rw [h]; rfl)
      · exact .inr (by rw [h])

/-- Rounding to a whole number is within half of the exact value, and even where it is exactly half away. -/
theorem roundTiesEven_spec (n d : Nat) (hd : 0 < d) :
    2 * (roundTiesEven n d * d) ≤ 2 * n + d ∧ 2 * n ≤ 2 * (roundTiesEven n d * d) + d ∧
      (2 * (roundTiesEven n d * d) = 2 * n + d ∨ 2 * n = 2 * (roundTiesEven n d * d) + d →
        roundTiesEven n d % 2 = 0) := by
  have e := Nat.div_add_mod n d
  have hr := Nat.mod_lt n hd
  rw [Nat.mul_comm] at e
  simp only [roundTiesEven]
  generalize n / d = q at *
  generalize n % d = r at *
  split
  · exact ⟨by omega, by omega, by omega⟩
  · split
    · rw [Nat.add_mul, Nat.one_mul]
      exact ⟨by omega, by omega, by omega⟩
    · rcases Nat.mod_two_eq_zero_or_one q with h | h
      · rw [h, Nat.add_zero]
        exact ⟨by omega, by omega, fun _ => h⟩
      · rw [h, Nat.add_mul, Nat.one_mul]
        exact ⟨by omega, by omega, by omega⟩

/-- Whatever its free bits, the operand named `NaN` is a NaN (R113; log 12). -/
theorem f64IsNaN_nan : f64IsNaN f64NaN = true := by
  have h := Config.nanFraction.isLt
  have e : f64Exp f64NaN = 2047 := by rw [f64NaN, f64Exp_pack _ _ (by omega)]; omega
  have f : f64Frac f64NaN ≠ 0 := by rw [f64NaN, f64Frac_pack _ _ (by omega)]; omega
  rw [f64IsNaN, e]
  simpa using f

/-- Rounding never passes an infinity. -/
theorem f64RoundMag_le (n d : Nat) : f64RoundMag n d ≤ 2047 * 2 ^ 52 := Nat.min_le_right _ _

/-- Zero rounds to zero. -/
@[simp] theorem f64RoundMag_zero (d : Nat) : f64RoundMag 0 d = 0 := by
  simp [f64RoundMag, f64Step, roundTiesEven]

end Sys2Proof.Machine
end

