-- ==== Sys2Proof/Laws/Params.lean ====
section
/-! SUPPORT. The values of the parameters, and what is known of the open one. -/

namespace Sys2Proof.Machine

@[simp] theorem chipClockHz_val : chipClockHz = 1789773 := rfl
@[simp] theorem sampleRate_val : sampleRate = 48000 := rfl
@[simp] theorem tickPhase_val : tickPhase = 96000 := rfl
@[simp] theorem fifoCapacity_val : fifoCapacity = 192000 := rfl
@[simp] theorem frame4Wrap_val : frame4Wrap = 14915 := rfl
@[simp] theorem frame5Wrap_val : frame5Wrap = 18641 := rfl
@[simp] theorem periodMin_val : periodMin = 8 := rfl
@[simp] theorem periodMax_val : periodMax = 2047 := rfl

/-- A chunk has at least one sample (R127). -/
theorem chunkSamples_pos : 1 ≤ Config.chunkSamples := Nat.succ_pos _

/-- A chunk fits the buffer (R127). -/
theorem chunkSamples_le : 2 * Config.chunkSamples ≤ 192000 := by
  have h := Config.chunkChoice.isLt
  unfold Config.chunkSamples
  omega

/-- This hardware's parameters are legal, whatever the chunk size (R127, R133; log 5). -/
theorem params_legal : constructParams params = some params := by
  have h1 := chunkSamples_pos
  have h2 := chunkSamples_le
  have h : paramsLegal params = true := by
    have e1 : decide (1 ≤ Config.chunkSamples) = true := decide_eq_true h1
    have e2 : decide (2 * Config.chunkSamples ≤ 192000) = true := decide_eq_true h2
    rw [paramsLegal, params, fifoCapacity_val, e1, e2]
    rfl
  rw [constructParams, if_pos h]

/-- The wrap value of either schedule (R118). -/
theorem frameWrap_eq (m : Bool) : frameWrap m = if m then 18641 else 14915 := rfl

/-- The events of a tick (R115): the quiet point of the 5-step schedule fires nothing, so both modes have the same points. -/
theorem schedule_eq (m : Bool) (fc : Nat) :
    schedule m fc = (fc == 0 || fc == 3729 || fc == 7456 || fc == 11185, fc == 0 || fc == 7456) := by
  by_cases h0 : fc = 0
  · subst h0; cases m <;> rfl
  by_cases h1 : fc = 3729
  · subst h1; cases m <;> rfl
  by_cases h2 : fc = 7456
  · subst h2; cases m <;> rfl
  by_cases h3 : fc = 11185
  · subst h3; cases m <;> rfl
  by_cases h4 : fc = 14915
  · subst h4; cases m <;> rfl
  have e0 : (0 == fc) = false := by simpa using Ne.symm h0
  have e1 : (3729 == fc) = false := by simpa using Ne.symm h1
  have e2 : (7456 == fc) = false := by simpa using Ne.symm h2
  have e3 : (11185 == fc) = false := by simpa using Ne.symm h3
  have e4 : (14915 == fc) = false := by simpa using Ne.symm h4
  have n : schedule m fc = (false, false) := by
    cases m <;> simp only [schedule, framePoints, frame5Points, frame4Points, List.cons_append, List.nil_append,
      List.find?_cons, List.find?_nil, e0, e1, e2, e3, e4, if_true, Bool.false_eq_true, if_false]
  simp [n, h0, h1, h2, h3]

/-- Every length code loads a value between 2 and 254 (R79). -/
theorem lengthOf_bounds (c : BitVec 5) : 2 ≤ lengthOf c ∧ lengthOf c ≤ 254 := by
  revert c; decide

/-- Every noise period fits the noise timer's 12 bits (R18, R80). -/
theorem noisePeriodOf_bounds (i : BitVec 4) : 4 ≤ noisePeriodOf i ∧ noisePeriodOf i ≤ 4068 := by
  revert i; decide

/-- An assembled period has 11 bits (R56). -/
theorem assemblePeriod_le (hi lo : Byte) : assemblePeriod hi lo ≤ 2047 := by
  have h := (fTimerHi hi ++ lo).isLt
  unfold assemblePeriod
  omega

/-- The parts of an assembled period (R56). -/
theorem assemblePeriod_eq (hi lo : Byte) : assemblePeriod hi lo = (hi.toNat % 8) * 256 + lo.toNat := by
  unfold assemblePeriod fTimerHi
  rw [BitVec.toNat_append, Nat.shiftLeft_eq, Nat.mul_comm, ← Nat.two_pow_add_eq_or_of_lt lo.isLt]
  simp [BitVec.extractLsb'_toNat]
  omega

end Sys2Proof.Machine
end

