-- ==== Sys2Proof/Laws/Memory.lean ====
section
/-! SUPPORT. The ring-buffer bytes: read after write, the canonical form, and what a push and a removal do. -/

namespace Sys2Proof.Machine

/-- An offset before every listed one reads as unlisted. -/
theorem cellsRead_of_lt (m : List Host.Cell) (a : Nat) (h : ∀ c ∈ m, a < c.1) : cellsRead m a = unlistedByte := by
  induction m with
  | nil => rfl
  | cons c m ih =>
    have hc := h c (by simp)
    simp only [cellsRead]
    rw [if_neg (by omega)]
    exact ih fun x hx => h x (by simp [hx])

/-- Reading the offset just written gives the byte written, on rising offsets. -/
theorem cellsRead_write_same (m : List Host.Cell) (hm : m.Pairwise (fun x y => x.1 < y.1)) (a : Nat) (v : Byte) :
    cellsRead (cellsWrite m a v) a = v := by
  induction m with
  | nil => by_cases hv : v = unlistedByte <;> simp [cellsWrite, cellsRead, hv]
  | cons c m ih =>
    obtain ⟨b, w⟩ := c
    rw [List.pairwise_cons] at hm
    simp only [cellsWrite]
    split
    · rename_i hab
      split
      · rename_i hv
        rw [hv]
        exact cellsRead_of_lt _ _ fun x hx => by
          rcases List.mem_cons.1 hx with rfl | hx
          · exact hab
          · exact Nat.lt_trans hab (hm.1 x hx)
      · simp [cellsRead]
    · split
      · rename_i hab
        split
        · rename_i hv
          rw [hv, hab]
          exact cellsRead_of_lt _ _ fun x hx => hm.1 x hx
        · simp [cellsRead]
      · rename_i hab
        simp only [cellsRead, if_neg hab]
        exact ih hm.2

/-- A write leaves every other offset alone. -/
theorem cellsRead_write_other (m : List Host.Cell) (a x : Nat) (v : Byte) (hx : x ≠ a) :
    cellsRead (cellsWrite m a v) x = cellsRead m x := by
  induction m with
  | nil => by_cases hv : v = unlistedByte <;> simp [cellsWrite, cellsRead, hv, hx]
  | cons c m ih =>
    obtain ⟨b, w⟩ := c
    simp only [cellsWrite]
    split
    · split <;> simp [cellsRead, hx]
    · split
      · rename_i hab
        have hxb : x ≠ b := hab ▸ hx
        split <;> simp [cellsRead, hx, hxb]
      · simp only [cellsRead, ih]

/-- Every offset listed after a write was listed before or is the one written. -/
theorem cellsWrite_mem (m : List Host.Cell) (a : Nat) (v : Byte) (c : Host.Cell) (hc : c ∈ cellsWrite m a v) :
    c ∈ m ∨ c = (a, v) ∧ v ≠ unlistedByte := by
  induction m with
  | nil => by_cases hv : v = unlistedByte <;> simp_all [cellsWrite]
  | cons d m ih =>
    obtain ⟨b, w⟩ := d
    simp only [cellsWrite] at hc
    split at hc
    · split at hc
      · exact .inl hc
      · rcases List.mem_cons.1 hc with rfl | hc
        · exact .inr ⟨rfl, by assumption⟩
        · exact .inl hc
    · split at hc
      · split at hc
        · exact .inl (List.mem_cons_of_mem _ hc)
        · rcases List.mem_cons.1 hc with rfl | hc
          · exact .inr ⟨rfl, by assumption⟩
          · exact .inl (List.mem_cons_of_mem _ hc)
      · rcases List.mem_cons.1 hc with rfl | hc
        · exact .inl (by simp)
        · exact (ih hc).imp (List.mem_cons_of_mem _) id

/-- Every memory operation keeps the canonical form: this is the write. -/
theorem cellsWrite_wf (m : List Host.Cell) (a : Nat) (v : Byte) (ha : a < fifoCapacity) (hm : cellsWf m) :
    cellsWf (cellsWrite m a v) := by
  refine ⟨?_, fun c hc => ?_⟩
  · replace hm := hm.1
    induction m with
    | nil => by_cases hv : v = unlistedByte <;> simp [cellsWrite, hv]
    | cons d m ih =>
      obtain ⟨b, w⟩ := d
      have hm' := List.pairwise_cons.1 hm
      simp only [cellsWrite]
      split
      · rename_i hab
        split
        · exact hm
        · refine List.pairwise_cons.2 ⟨fun x hx => ?_, hm⟩
          rcases List.mem_cons.1 hx with rfl | hx
          · exact hab
          · exact Nat.lt_trans hab (hm'.1 x hx)
      · split
        · rename_i hab
          split
          · exact hm'.2
          · exact List.pairwise_cons.2 ⟨fun x hx => hab ▸ hm'.1 x hx, hm'.2⟩
        · refine List.pairwise_cons.2 ⟨fun x hx => ?_, ih hm'.2⟩
          rcases cellsWrite_mem m a v x hx with hx | ⟨rfl, -⟩
          · exact hm'.1 x hx
          · show b < a
            omega
  · rcases cellsWrite_mem m a v c hc with hc | ⟨rfl, hv⟩
    · exact hm.2 c hc
    · exact ⟨ha, hv⟩

/-- The reset contents are in canonical form: nothing is listed. -/
theorem cellsWf_nil : cellsWf [] := ⟨List.Pairwise.nil, by simp⟩

theorem fifoOffset_lt (a : Nat) : fifoOffset a < fifoCapacity := Nat.mod_lt _ (by decide)

theorem fifoOffset_of_lt {a : Nat} (h : a < fifoCapacity) : fifoOffset a = a := Nat.mod_eq_of_lt h

@[simp] theorem Fifo.writeByte_wHead (f : Fifo) (a : Nat) (v : Byte) : (f.writeByte a v).wHead = f.wHead := rfl
@[simp] theorem Fifo.writeByte_rHead (f : Fifo) (a : Nat) (v : Byte) : (f.writeByte a v).rHead = f.rHead := rfl
@[simp] theorem Fifo.writeByte_fill (f : Fifo) (a : Nat) (v : Byte) : (f.writeByte a v).fill = f.fill := rfl
@[simp] theorem Fifo.writeByte_wlock (f : Fifo) (a : Nat) (v : Byte) : (f.writeByte a v).wlock = f.wlock := rfl

/-- One byte after one write (R8): the byte written at its own offset, every other byte as before. -/
theorem Fifo.readByte_writeByte (f : Fifo) (hf : cellsWf f.buf) (a x : Nat) (v : Byte) :
    (f.writeByte a v).readByte x = if fifoOffset x = fifoOffset a then v else f.readByte x := by
  simp only [Fifo.readByte, Fifo.writeByte]
  split
  · rename_i h
    rw [h, cellsRead_write_same _ hf.1]
  · rename_i h
    rw [cellsRead_write_other _ _ _ _ h]

/-- One write keeps the canonical form. -/
theorem Fifo.writeByte_wf (f : Fifo) (hf : cellsWf f.buf) (a : Nat) (v : Byte) : cellsWf (f.writeByte a v).buf :=
  cellsWrite_wf _ _ _ (fifoOffset_lt a) hf

/-- `MemRead` of two bytes is little-endian (R36). -/
theorem Fifo.memRead_two (f : Fifo) (a : Nat) :
    f.memRead a 2 = (f.readByte a).toNat + 256 * (f.readByte (a + 1)).toNat := by
  simp [Fifo.memRead]

/-- A sample is its two bytes, the low byte at the lower offset (R36). -/
theorem Fifo.readSample_eq (f : Fifo) (a : Nat) : f.readSample a = f.readByte (a + 1) ++ f.readByte a := by
  apply BitVec.eq_of_toNat_eq
  have h0 := (f.readByte a).isLt
  have h1 := (f.readByte (a + 1)).isLt
  rw [BitVec.toNat_append, Nat.shiftLeft_eq, Nat.mul_comm, ← Nat.two_pow_add_eq_or_of_lt h0]
  simp only [Fifo.readSample, Fifo.memRead_two, BitVec.toNat_ofNat]
  omega

/-- `MemWrite` of two bytes is the low byte and then the high byte (R36). -/
theorem Fifo.memWrite_two (f : Fifo) (a v : Nat) :
    f.memWrite a 2 v = (f.writeByte a (BitVec.ofNat 8 v)).writeByte (a + 1) (BitVec.ofNat 8 (v / 256)) := rfl

/-- What a push does to the heads, the fill and the lock (R123). -/
theorem Fifo.push_wHead (f : Fifo) (x : Sample) : (f.push x).wHead = (f.wHead + 2) % 192000 := rfl
@[simp] theorem Fifo.push_rHead (f : Fifo) (x : Sample) : (f.push x).rHead = f.rHead := rfl
@[simp] theorem Fifo.push_fill (f : Fifo) (x : Sample) : (f.push x).fill = f.fill + 2 := rfl
@[simp] theorem Fifo.push_wlock (f : Fifo) (x : Sample) : (f.push x).wlock = false := rfl

/-- The bytes after a push (R123): the sample's low byte at the write head, its high byte at the next offset, every other
byte as before. -/
theorem Fifo.push_readByte (f : Fifo) (hf : cellsWf f.buf) (x : Sample) (a : Nat) :
    (f.push x).readByte a =
      if fifoOffset a = fifoOffset (f.wHead + 1) then x.extractLsb' 8 8
      else if fifoOffset a = fifoOffset f.wHead then x.extractLsb' 0 8 else f.readByte a := by
  have e : (f.push x).readByte a =
      ((f.writeByte f.wHead (BitVec.ofNat 8 x.toNat)).writeByte (f.wHead + 1)
        (BitVec.ofNat 8 (x.toNat / 256))).readByte a := rfl
  have lo : BitVec.ofNat 8 x.toNat = x.extractLsb' 0 8 := by
    apply BitVec.eq_of_toNat_eq; simp [BitVec.extractLsb'_toNat]
  have hi : BitVec.ofNat 8 (x.toNat / 256) = x.extractLsb' 8 8 := by
    apply BitVec.eq_of_toNat_eq; simp [BitVec.extractLsb'_toNat, Nat.shiftRight_eq_div_pow]
  rw [e, Fifo.readByte_writeByte _ (Fifo.writeByte_wf _ hf _ _), Fifo.readByte_writeByte _ hf, lo, hi]

/-- A push keeps the canonical form. -/
theorem Fifo.push_wf (f : Fifo) (hf : cellsWf f.buf) (x : Sample) : cellsWf (f.push x).buf :=
  Fifo.writeByte_wf _ (Fifo.writeByte_wf _ hf _ _) _ _

/-- A POP with enough buffered returns the oldest chunk and moves the read head (R125). -/
theorem popChunk_of_full (n : Nat) (s : State) (h : 2 * n ≤ s.fifo.fill) :
    popChunk n s = { s with fifo := s.fifo.drop n, chunks := s.chunks ++ [s.fifo.oldest n] } := by
  have : popHolds n s.fifo = false := by simp [popHolds]; omega
  simp [popChunk, this]

/-- A POP with too little buffered holds (R126). -/
theorem popChunk_of_short (n : Nat) (s : State) (h : s.fifo.fill < 2 * n) : popChunk n s = s := by
  simp [popChunk, popHolds, h]

@[simp] theorem Fifo.oldest_length (f : Fifo) (n : Nat) : (f.oldest n).length = n := by simp [Fifo.oldest]

end Sys2Proof.Machine
end

