-- ==== Sys2Proof/Laws/PerInstr.lean ====
section
/-! SUPPORT. Statements about every instruction, one lemma per constructor. -/

namespace Sys2Proof.Laws.ReservedBits

/-- The encoding of the instruction has every reserved field as R51 to R54 require: its word spells a command (R59). -/
def Statement (i : Instr) : Prop := (encode i).word.wellFormed = true

theorem w4000 (d : Byte) : Statement (.w4000 d) := writeWord_wellFormed 0x00#5 d
theorem w4001 (d : Byte) : Statement (.w4001 d) := writeWord_wellFormed 0x01#5 d
theorem w4002 (d : Byte) : Statement (.w4002 d) := writeWord_wellFormed 0x02#5 d
theorem w4003 (d : Byte) : Statement (.w4003 d) := writeWord_wellFormed 0x03#5 d
theorem w4004 (d : Byte) : Statement (.w4004 d) := writeWord_wellFormed 0x04#5 d
theorem w4005 (d : Byte) : Statement (.w4005 d) := writeWord_wellFormed 0x05#5 d
theorem w4006 (d : Byte) : Statement (.w4006 d) := writeWord_wellFormed 0x06#5 d
theorem w4007 (d : Byte) : Statement (.w4007 d) := writeWord_wellFormed 0x07#5 d
theorem w4008 (d : Byte) : Statement (.w4008 d) := writeWord_wellFormed 0x08#5 d
theorem w4009 (d : Byte) : Statement (.w4009 d) := writeWord_wellFormed 0x09#5 d
theorem w400A (d : Byte) : Statement (.w400A d) := writeWord_wellFormed 0x0A#5 d
theorem w400B (d : Byte) : Statement (.w400B d) := writeWord_wellFormed 0x0B#5 d
theorem w400C (d : Byte) : Statement (.w400C d) := writeWord_wellFormed 0x0C#5 d
theorem w400D (d : Byte) : Statement (.w400D d) := writeWord_wellFormed 0x0D#5 d
theorem w400E (d : Byte) : Statement (.w400E d) := writeWord_wellFormed 0x0E#5 d
theorem w400F (d : Byte) : Statement (.w400F d) := writeWord_wellFormed 0x0F#5 d
theorem w4010 (d : Byte) : Statement (.w4010 d) := writeWord_wellFormed 0x10#5 d
theorem w4011 (d : Byte) : Statement (.w4011 d) := writeWord_wellFormed 0x11#5 d
theorem w4012 (d : Byte) : Statement (.w4012 d) := writeWord_wellFormed 0x12#5 d
theorem w4013 (d : Byte) : Statement (.w4013 d) := writeWord_wellFormed 0x13#5 d
theorem w4014 (d : Byte) : Statement (.w4014 d) := writeWord_wellFormed 0x14#5 d
theorem w4015 (d : Byte) : Statement (.w4015 d) := writeWord_wellFormed 0x15#5 d
theorem w4016 (d : Byte) : Statement (.w4016 d) := writeWord_wellFormed 0x16#5 d
theorem w4017 (d : Byte) : Statement (.w4017 d) := writeWord_wellFormed 0x17#5 d
theorem w4018 (d : Byte) : Statement (.w4018 d) := writeWord_wellFormed 0x18#5 d
theorem w4019 (d : Byte) : Statement (.w4019 d) := writeWord_wellFormed 0x19#5 d
theorem w401A (d : Byte) : Statement (.w401A d) := writeWord_wellFormed 0x1A#5 d
theorem w401B (d : Byte) : Statement (.w401B d) := writeWord_wellFormed 0x1B#5 d
theorem w401C (d : Byte) : Statement (.w401C d) := writeWord_wellFormed 0x1C#5 d
theorem w401D (d : Byte) : Statement (.w401D d) := writeWord_wellFormed 0x1D#5 d
theorem w401E (d : Byte) : Statement (.w401E d) := writeWord_wellFormed 0x1E#5 d
theorem w401F (d : Byte) : Statement (.w401F d) := writeWord_wellFormed 0x1F#5 d
theorem writeFlag (addr : RegIndex) (bit : BitVec 3) (val : Bool) : Statement (.writeFlag addr bit val) :=
  flagWord_wellFormed addr bit val
theorem read (addr : RegIndex) : Statement (.read addr) := readWord_wellFormed addr
theorem tick : Statement .tick := eventWord_wellFormed 0x00#6 (by decide)
theorem pop : Statement .pop := eventWord_wellFormed 0x01#6 (by decide)
theorem setGain (g : F64) : Statement (.setGain g) := eventWord_wellFormed 0x02#6 (by decide)

end Sys2Proof.Laws.ReservedBits
end

