-- ==== Sys2Proof/Laws/Primitives.lean ====
section
/-! SUPPORT. What each primitive and each channel operation can do, said once, and what it leaves alone. -/

namespace Sys2Proof.Machine

/-! ### Divider -/

@[simp] theorem Divider.clock_period (d : Divider) : d.clock.1.period = d.period := by
  simp only [Divider.clock]; split <;> [(split <;> rfl); rfl]

@[simp] theorem Divider.clock_loop (d : Divider) : d.clock.1.loop = d.loop := by
  simp only [Divider.clock]; split <;> [(split <;> rfl); rfl]

/-- The count after a clock (R63). -/
theorem Divider.clock_count (d : Divider) :
    d.clock.1.count = if d.count = 0 then (if d.loop then d.period else 0) else d.count - 1 := by
  simp only [Divider.clock]
  split
  · split <;> simp_all
  · rfl

/-- A divider fires exactly when its count was 0 (R63). -/
theorem Divider.clock_fired (d : Divider) : d.clock.2 = (d.count == 0) := by
  simp only [Divider.clock]
  split <;> simp_all

@[simp] theorem Divider.load_period (d : Divider) (p : Nat) : (d.load p).period = p := rfl
@[simp] theorem Divider.load_count (d : Divider) (p : Nat) : (d.load p).count = p := rfl
@[simp] theorem Divider.load_loop (d : Divider) (p : Nat) : (d.load p).loop = d.loop := rfl
@[simp] theorem Divider.setPeriod_period (d : Divider) (p : Nat) : (d.setPeriod p).period = p := rfl
@[simp] theorem Divider.setPeriod_count (d : Divider) (p : Nat) : (d.setPeriod p).count = d.count := rfl
@[simp] theorem Divider.setPeriod_loop (d : Divider) (p : Nat) : (d.setPeriod p).loop = d.loop := rfl

/-- A clock keeps a divider within its width (R18). -/
theorem Divider.clock_fits {bits : Nat} {loop : Bool} {d : Divider} (h : d.Fits bits loop) :
    d.clock.1.Fits bits loop := by
  obtain ⟨hp, hc, hl⟩ := h
  refine ⟨by simpa using hp, ?_, by simpa using hl⟩
  rw [Divider.clock_count]
  split
  · split <;> omega
  · omega

/-- A load of a value that fits keeps a divider within its width (R18). -/
theorem Divider.load_fits {bits : Nat} {loop : Bool} {d : Divider} {p : Nat} (h : d.Fits bits loop) (hp : p < 2 ^ bits) :
    (d.load p).Fits bits loop := ⟨hp, hp, h.2.2⟩

/-- A new period that fits keeps a divider within its width (R18). -/
theorem Divider.setPeriod_fits {bits : Nat} {loop : Bool} {d : Divider} {p : Nat} (h : d.Fits bits loop)
    (hp : p < 2 ^ bits) : (d.setPeriod p).Fits bits loop := ⟨hp, h.2.1, h.2.2⟩

/-! ### LengthCounter -/

@[simp] theorem LengthCounter.clock_halt (lc : LengthCounter) : lc.clock.1.halt = lc.halt := by
  simp only [LengthCounter.clock]; split <;> rfl

/-- The divider after a clock: untouched while halted (R66). -/
theorem LengthCounter.clock_div (lc : LengthCounter) :
    lc.clock.1.div = if lc.halt then lc.div else lc.div.clock.1 := by
  simp only [LengthCounter.clock]; split <;> rfl

@[simp] theorem LengthCounter.clock_period (lc : LengthCounter) : lc.clock.1.div.period = lc.div.period := by
  rw [LengthCounter.clock_div]; split <;> simp

/-- The count after a clock of a counter that does not loop: one less, floored at 0, unless halted (R66). -/
theorem LengthCounter.clock_count (lc : LengthCounter) (h : lc.div.loop = false) :
    lc.clock.1.div.count = if lc.halt then lc.div.count else lc.div.count - 1 := by
  rw [LengthCounter.clock_div]
  split
  · rfl
  · rw [Divider.clock_count, h]
    split <;> simp_all

/-- A clock keeps a counter within its width (R18). -/
theorem LengthCounter.clock_fits {bits : Nat} {loop : Bool} {lc : LengthCounter} (h : lc.div.Fits bits loop) :
    lc.clock.1.div.Fits bits loop := by
  rw [LengthCounter.clock_div]
  split
  · exact h
  · exact Divider.clock_fits h

@[simp] theorem LengthCounter.load_halt (lc : LengthCounter) (c : BitVec 5) : (lc.load c).halt = lc.halt := rfl
@[simp] theorem LengthCounter.load_div (lc : LengthCounter) (c : BitVec 5) :
    (lc.load c).div = lc.div.load (lengthOf c) := rfl
@[simp] theorem LengthCounter.loadDirect_halt (lc : LengthCounter) (n : Nat) : (lc.loadDirect n).halt = lc.halt := rfl
@[simp] theorem LengthCounter.loadDirect_div (lc : LengthCounter) (n : Nat) : (lc.loadDirect n).div = lc.div.load n := rfl

/-! ### Envelope -/

@[simp] theorem Envelope.clock_volume (e : Envelope) : e.clock.volume = e.volume := by
  simp only [Envelope.clock]; split <;> rfl
@[simp] theorem Envelope.clock_constant (e : Envelope) : e.clock.constant = e.constant := by
  simp only [Envelope.clock]; split <;> rfl
@[simp] theorem Envelope.clock_loop (e : Envelope) : e.clock.loop = e.loop := by
  simp only [Envelope.clock]; split <;> rfl
@[simp] theorem Envelope.clock_start (e : Envelope) : e.clock.start = false := by
  simp only [Envelope.clock]; split <;> simp_all
@[simp] theorem Envelope.clock_period (e : Envelope) : e.clock.div.period = e.div.period := by
  simp only [Envelope.clock]; split <;> simp

/-- The first clock after a load (R71). -/
theorem Envelope.clock_started (e : Envelope) (h : e.start = true) :
    e.clock = { e with start := false, decay := 15#4, div := { e.div with count := e.div.period } } := by
  simp [Envelope.clock, h]

/-- Every other clock (R71). -/
theorem Envelope.clock_running (e : Envelope) (h : e.start = false) :
    e.clock = { e with div := e.div.clock.1, decay := if e.div.count = 0 then e.decayed else e.decay } := by
  simp [Envelope.clock, h, Divider.clock_fired]

/-- A clock keeps the envelope divider within its width (R18). -/
theorem Envelope.clock_fits {bits : Nat} {loop : Bool} {e : Envelope} (h : e.div.Fits bits loop) :
    e.clock.div.Fits bits loop := by
  simp only [Envelope.clock]
  split
  · exact ⟨h.1, h.1, h.2.2⟩
  · exact Divider.clock_fits h

@[simp] theorem Envelope.load_div (e : Envelope) (v : BitVec 4) (c l : Bool) :
    (e.load v c l).div = e.div.setPeriod v.toNat := rfl
@[simp] theorem Envelope.load_start (e : Envelope) (v : BitVec 4) (c l : Bool) : (e.load v c l).start = true := rfl
@[simp] theorem Envelope.load_constant (e : Envelope) (v : BitVec 4) (c l : Bool) : (e.load v c l).constant = c := rfl
@[simp] theorem Envelope.load_loop (e : Envelope) (v : BitVec 4) (c l : Bool) : (e.load v c l).loop = l := rfl
@[simp] theorem Envelope.load_volume (e : Envelope) (v : BitVec 4) (c l : Bool) : (e.load v c l).volume = v := rfl
@[simp] theorem Envelope.load_decay (e : Envelope) (v : BitVec 4) (c l : Bool) : (e.load v c l).decay = e.decay := rfl

/-! ### Sweep -/

@[simp] theorem Sweep.clock_enabled (k : PulseId) (raw : Nat) (s : Sweep) : (s.clock k raw).1.enabled = s.enabled := by
  simp only [Sweep.clock]; split <;> rfl
@[simp] theorem Sweep.clock_negate (k : PulseId) (raw : Nat) (s : Sweep) : (s.clock k raw).1.negate = s.negate := by
  simp only [Sweep.clock]; split <;> rfl
@[simp] theorem Sweep.clock_shift (k : PulseId) (raw : Nat) (s : Sweep) : (s.clock k raw).1.shift = s.shift := by
  simp only [Sweep.clock]; split <;> rfl
@[simp] theorem Sweep.clock_period (k : PulseId) (raw : Nat) (s : Sweep) :
    (s.clock k raw).1.div.period = s.div.period := by
  simp only [Sweep.clock]; split <;> simp

/-- A clock keeps the sweep divider within its width (R18). -/
theorem Sweep.clock_fits {bits : Nat} {loop : Bool} {k : PulseId} {raw : Nat} {s : Sweep} (h : s.div.Fits bits loop) :
    (s.clock k raw).1.div.Fits bits loop := by
  simp only [Sweep.clock]
  split
  · exact Divider.clock_fits h
  · exact h

/-- A period that a sweep sets is in [8, 0x7FF] (R75). -/
theorem Sweep.clock_set_bounds {k : PulseId} {raw t : Nat} {s : Sweep} (h : (s.clock k raw).2 = .set t) :
    8 ≤ t ∧ t ≤ 2047 := by
  simp only [Sweep.clock] at h
  split at h
  · simp only at h
    split at h
    · by_cases hr : sweepTarget k raw s < (periodMin : Int) ∨ (periodMax : Int) < sweepTarget k raw s
      · rw [sweepAdjust, if_pos hr] at h
        cases h
      · rw [sweepAdjust, if_neg hr] at h
        cases h
        simp only [periodMin_val, periodMax_val] at hr
        omega
    · cases h
  · cases h

/-! ### LFSR and Sequencer -/

@[simp] theorem Lfsr.clock_mode (r : Lfsr) : r.clock.mode = r.mode := rfl

/-- The bits after a clock (R76): each bit moves down by one, and bit 14 is the feedback. -/
theorem Lfsr.clock_bit (r : Lfsr) (i : Nat) :
    r.clock.shift.getLsbD i = if i = 14 then r.feedback else decide (i < 14) && r.shift.getLsbD (i + 1) := by
  simp only [Lfsr.clock, BitVec.getLsbD_or, BitVec.getLsbD_ushiftRight, BitVec.getLsbD_shiftLeft,
    BitVec.getLsbD_setWidth, BitVec.getLsbD_ofBool]
  by_cases h : i = 14
  · subst h
    simp
  · by_cases h2 : i < 14
    · simp [h, h2, show i < 15 by omega, Nat.add_comm]
    · have h3 : r.shift.getLsbD (1 + i) = false := BitVec.getLsbD_of_ge _ _ (by omega)
      simp [h, h2, h3, show ¬ i < 15 by omega]

@[simp] theorem Sequencer.clock_index {α : Type} [Inhabited α] {n : Nat} (q : Sequencer) (table : Vector α n) :
    (q.clock table).1.index = (q.index + 1) % n := rfl

/-! ### Channels -/

/-- The three outcomes of a half frame on a pulse channel (R89). -/
theorem Pulse.half_cases (k : PulseId) (p : Pulse) :
    (p.half k = { p with len := p.len.clock.1, sweep := (p.sweep.clock k p.raw).1 } ∧
        (p.sweep.clock k p.raw).2 = .none) ∨
      (∃ t, p.half k =
          { p with len := p.len.clock.1, sweep := (p.sweep.clock k p.raw).1, raw := t, timer := p.timer.setPeriod t } ∧
        (p.sweep.clock k p.raw).2 = .set t) ∨
      (p.half k = { p with len := p.len.clock.1, sweep := (p.sweep.clock k p.raw).1, enabled := false } ∧
        (p.sweep.clock k p.raw).2 = .mute) := by
  cases h : (p.sweep.clock k p.raw).2 with
  | none => exact .inl ⟨by simp [Pulse.half, Pulse.applySweep, h], rfl⟩
  | set t => exact .inr (.inl ⟨t, by simp [Pulse.half, Pulse.applySweep, h], rfl⟩)
  | mute => exact .inr (.inr ⟨by simp [Pulse.half, Pulse.applySweep, h], rfl⟩)

/-- A quarter frame keeps a pulse channel's bounds. -/
theorem Pulse.quarter_wf {p : Pulse} (h : p.Wf) : p.quarter.Wf :=
  ⟨h.1, h.2.1, h.2.2.1, Envelope.clock_fits h.2.2.2.1, h.2.2.2.2.1, h.2.2.2.2.2⟩

/-- A half frame keeps a pulse channel's bounds. -/
theorem Pulse.half_wf {p : Pulse} (k : PulseId) (h : p.Wf) : (p.half k).Wf := by
  obtain ⟨h1, h2, h3, h4, h5, h6⟩ := h
  have hl := LengthCounter.clock_fits h3
  have hs : (p.sweep.clock k p.raw).1.div.Fits 3 true := Sweep.clock_fits h5
  rcases Pulse.half_cases k p with ⟨e, -⟩ | ⟨t, e, ho⟩ | ⟨e, -⟩
  · rw [e]; exact ⟨h1, h2, hl, h4, hs, h6⟩
  · have hb := Sweep.clock_set_bounds ho
    rw [e]
    exact ⟨hb.2, Divider.setPeriod_fits h2 (by omega), hl, h4, hs, h6⟩
  · rw [e]; exact ⟨h1, h2, hl, h4, hs, h6⟩

/-- A tick keeps a pulse channel's bounds. -/
theorem Pulse.clock_wf {p : Pulse} (h : p.Wf) : p.clock.Wf := by
  refine ⟨h.1, Divider.clock_fits h.2.1, h.2.2.1, h.2.2.2.1, h.2.2.2.2.1, ?_⟩
  simp only [Pulse.clock]
  split
  · exact Nat.mod_lt _ (by decide)
  · exact h.2.2.2.2.2

/-- A quarter frame keeps the triangle's bounds. -/
theorem Triangle.quarter_wf {t : Triangle} (h : t.Wf) : t.quarter.Wf :=
  ⟨h.1, h.2.1, h.2.2.1, LengthCounter.clock_fits h.2.2.2.1, h.2.2.2.2⟩

/-- A half frame keeps the triangle's bounds. -/
theorem Triangle.half_wf {t : Triangle} (h : t.Wf) : t.half.Wf :=
  ⟨h.1, h.2.1, LengthCounter.clock_fits h.2.2.1, h.2.2.2.1, h.2.2.2.2⟩

/-- One timer clock keeps the triangle's bounds. -/
theorem Triangle.clockOnce_wf {t : Triangle} (h : t.Wf) : t.clockOnce.Wf := by
  refine ⟨h.1, Divider.clock_fits h.2.1, h.2.2.1, h.2.2.2.1, ?_⟩
  simp only [Triangle.clockOnce]
  split
  · exact Nat.mod_lt _ (by decide)
  · exact h.2.2.2.2

/-- A tick keeps the triangle's bounds. -/
theorem Triangle.clock_wf {t : Triangle} (h : t.Wf) : t.clock.Wf := Triangle.clockOnce_wf (Triangle.clockOnce_wf h)

/-- A quarter frame keeps the noise channel's bounds. -/
theorem Noise.quarter_wf {n : Noise} (h : n.Wf) : n.quarter.Wf := ⟨h.1, h.2.1, Envelope.clock_fits h.2.2⟩

/-- A half frame keeps the noise channel's bounds. -/
theorem Noise.half_wf {n : Noise} (h : n.Wf) : n.half.Wf := ⟨h.1, LengthCounter.clock_fits h.2.1, h.2.2⟩

/-- A tick keeps the noise channel's bounds. -/
theorem Noise.clock_wf {n : Noise} (h : n.Wf) : n.clock.Wf := ⟨Divider.clock_fits h.1, h.2.1, h.2.2⟩

/-! What a channel clock, quarter frame and half frame leave alone. -/

@[simp] theorem Pulse.quarter_enabled (p : Pulse) : p.quarter.enabled = p.enabled := rfl
@[simp] theorem Pulse.quarter_duty (p : Pulse) : p.quarter.duty = p.duty := rfl
@[simp] theorem Pulse.quarter_raw (p : Pulse) : p.quarter.raw = p.raw := rfl
@[simp] theorem Pulse.quarter_timer (p : Pulse) : p.quarter.timer = p.timer := rfl
@[simp] theorem Pulse.quarter_len (p : Pulse) : p.quarter.len = p.len := rfl
@[simp] theorem Pulse.quarter_env (p : Pulse) : p.quarter.env = p.env.clock := rfl
@[simp] theorem Pulse.quarter_sweep (p : Pulse) : p.quarter.sweep = p.sweep := rfl
@[simp] theorem Pulse.quarter_seq (p : Pulse) : p.quarter.seq = p.seq := rfl
@[simp] theorem Pulse.clock_enabled (p : Pulse) : p.clock.enabled = p.enabled := rfl
@[simp] theorem Pulse.clock_duty (p : Pulse) : p.clock.duty = p.duty := rfl
@[simp] theorem Pulse.clock_raw (p : Pulse) : p.clock.raw = p.raw := rfl
@[simp] theorem Pulse.clock_timer (p : Pulse) : p.clock.timer = p.timer.clock.1 := rfl
@[simp] theorem Pulse.clock_len (p : Pulse) : p.clock.len = p.len := rfl
@[simp] theorem Pulse.clock_env (p : Pulse) : p.clock.env = p.env := rfl
@[simp] theorem Pulse.clock_sweep (p : Pulse) : p.clock.sweep = p.sweep := rfl
@[simp] theorem Pulse.half_duty (k : PulseId) (p : Pulse) : (p.half k).duty = p.duty := by
  rcases Pulse.half_cases k p with ⟨e, -⟩ | ⟨t, e, -⟩ | ⟨e, -⟩ <;> rw [e]
@[simp] theorem Pulse.half_len (k : PulseId) (p : Pulse) : (p.half k).len = p.len.clock.1 := by
  rcases Pulse.half_cases k p with ⟨e, -⟩ | ⟨t, e, -⟩ | ⟨e, -⟩ <;> rw [e]
@[simp] theorem Pulse.half_env (k : PulseId) (p : Pulse) : (p.half k).env = p.env := by
  rcases Pulse.half_cases k p with ⟨e, -⟩ | ⟨t, e, -⟩ | ⟨e, -⟩ <;> rw [e]
@[simp] theorem Pulse.half_sweep (k : PulseId) (p : Pulse) : (p.half k).sweep = (p.sweep.clock k p.raw).1 := by
  rcases Pulse.half_cases k p with ⟨e, -⟩ | ⟨t, e, -⟩ | ⟨e, -⟩ <;> rw [e]
@[simp] theorem Pulse.half_seq (k : PulseId) (p : Pulse) : (p.half k).seq = p.seq := by
  rcases Pulse.half_cases k p with ⟨e, -⟩ | ⟨t, e, -⟩ | ⟨e, -⟩ <;> rw [e]
@[simp] theorem Pulse.half_timer_count (k : PulseId) (p : Pulse) : (p.half k).timer.count = p.timer.count := by
  rcases Pulse.half_cases k p with ⟨e, -⟩ | ⟨t, e, -⟩ | ⟨e, -⟩
  all_goals (rw [e]; try rfl)

end Sys2Proof.Machine
end

