-- ==== Sys2Proof/Laws/Tick.lean ====
section
/-! SUPPORT. TICK and WRITEFLAG, said once: when a tick holds, what every field is after one that does not, and the bits of the byte
that WRITEFLAG writes. -/

namespace Sys2Proof.Machine

/-- A tick holds when its sample is due and fewer than 2 bytes are free (R120). -/
theorem State.tickHolds_iff (s : State) : s.tickHolds = true ↔ 1789773 ≤ s.acc + 96000 ∧ 192000 - 2 < s.fifo.fill := by
  rw [State.tickHolds, Bool.and_eq_true, State.sampleDue, decide_eq_true_iff, decide_eq_true_iff]
  rfl

/-- A tick goes on when no sample is due or 2 bytes are free (R120). -/
theorem State.tickHolds_false {s : State} (h : s.acc + 96000 < 1789773 ∨ s.fifo.fill ≤ 192000 - 2) :
    s.tickHolds = false := by
  rw [← Bool.not_eq_true, State.tickHolds_iff]
  omega

/-- The channels that a tick samples (R119): after the frame events and the clocks. -/
def State.ticked (s : State) : State := (s.frameEvents (schedule s.mode5 s.fc)).clockChannels

@[simp] theorem State.tickBody_reg (s : State) : s.tickBody.reg = s.reg := by
  rw [State.tickBody, State.advanceFrame_reg, State.produceSample_reg, State.clockChannels_reg, State.frameEvents_reg]
@[simp] theorem State.tickBody_p0 (s : State) : s.tickBody.p0 = s.ticked.p0 := by
  rw [State.tickBody, State.advanceFrame_p0, State.produceSample_p0, State.ticked]
@[simp] theorem State.tickBody_p1 (s : State) : s.tickBody.p1 = s.ticked.p1 := by
  rw [State.tickBody, State.advanceFrame_p1, State.produceSample_p1, State.ticked]
@[simp] theorem State.tickBody_tri (s : State) : s.tickBody.tri = s.ticked.tri := by
  rw [State.tickBody, State.advanceFrame_tri, State.produceSample_tri, State.ticked]
@[simp] theorem State.tickBody_noise (s : State) : s.tickBody.noise = s.ticked.noise := by
  rw [State.tickBody, State.advanceFrame_noise, State.produceSample_noise, State.ticked]
@[simp] theorem State.tickBody_gain (s : State) : s.tickBody.gain = s.gain := by
  rw [State.tickBody, State.advanceFrame_gain, State.produceSample_gain, State.clockChannels_gain, State.frameEvents_gain]
@[simp] theorem State.tickBody_marks (s : State) : s.tickBody.marks = s.marks := by
  rw [State.tickBody, State.advanceFrame_marks, State.produceSample_marks, State.clockChannels_marks,
    State.frameEvents_marks]
@[simp] theorem State.tickBody_stream (s : State) : s.tickBody.stream = s.stream := by
  rw [State.tickBody, State.advanceFrame_stream, State.produceSample_stream, State.clockChannels_stream,
    State.frameEvents_stream]
@[simp] theorem State.tickBody_reads (s : State) : s.tickBody.reads = s.reads := by
  rw [State.tickBody, State.advanceFrame_reads, State.produceSample_reads, State.clockChannels_reads,
    State.frameEvents_reads]
@[simp] theorem State.tickBody_chunks (s : State) : s.tickBody.chunks = s.chunks := by
  rw [State.tickBody, State.advanceFrame_chunks, State.produceSample_chunks, State.clockChannels_chunks,
    State.frameEvents_chunks]

/-- The frame counter after a tick (R118). -/
theorem State.tickBody_fc (s : State) :
    s.tickBody.fc = if frameWrap s.mode5 ≤ s.fc + 1 then 0 else s.fc + 1 := by
  rw [State.tickBody, State.advanceFrame_fc, State.produceSample_fc, State.clockChannels_fc, State.frameEvents_fc]

/-- The accumulator after a tick (R121). -/
theorem State.tickBody_acc (s : State) :
    s.tickBody.acc = if 1789773 ≤ s.acc + 96000 then s.acc + 96000 - 1789773 else s.acc + 96000 := by
  rw [State.tickBody, State.advanceFrame_acc, State.produceSample, State.clockChannels_acc, State.frameEvents_acc,
    chipClockHz_val, tickPhase_val]
  split <;> rfl

/-- The ring buffer after a tick: one push where a sample is due (R119, R121). -/
theorem State.tickBody_fifo (s : State) : s.tickBody.fifo =
    if 1789773 ≤ s.acc + 96000 then
      s.fifo.push (mixSample s.ticked.p0.get s.ticked.p1.get s.ticked.tri.get s.ticked.noise.get s.gain)
    else s.fifo := by
  rw [State.tickBody, State.advanceFrame_fifo, State.produceSample, State.clockChannels_acc, State.frameEvents_acc,
    chipClockHz_val, tickPhase_val]
  split
  · show (s.ticked.fifo).push s.ticked.currentSample = _
    rw [State.ticked, State.clockChannels_fifo, State.frameEvents_fifo, State.currentSample, State.clockChannels_gain,
      State.frameEvents_gain]
  · show s.ticked.fifo = _
    rw [State.ticked, State.clockChannels_fifo, State.frameEvents_fifo]

/-- The bits of the byte that WRITEFLAG writes (R111). -/
theorem flagByte_bit (b : Byte) (i : BitVec 3) (v : Bool) (j : Nat) (hj : j < 8) :
    (flagByte b i v).getLsbD j = if j = i.toNat then v else b.getLsbD j := by
  simp only [flagByte, BitVec.getLsbD_or, BitVec.getLsbD_and, BitVec.getLsbD_not, BitVec.getLsbD_shiftLeft,
    BitVec.getLsbD_setWidth, BitVec.getLsbD_ofBool, BitVec.getLsbD_one]
  by_cases h : j = i.toNat
  · subst h
    simp [hj]
  · by_cases h2 : j < i.toNat
    · simp [h, h2, hj]
    · have : j - i.toNat ≠ 0 := by omega
      simp [h, h2, hj, this]

end Sys2Proof.Machine
end

