-- ==== Sys2Proof/Tests/Slice0.lean ====
section
/-! SUPPORT. Our own tests: the checks of WellFormed, every constructor's decoding, single steps with the values of
95_test_vectors.md (named in each comment), and a witness for every obligation that has hypotheses. -/

namespace Sys2Proof.Tests

open Sys2Proof Sys2Proof.Machine

set_option Elab.async false

/-! ### WellFormed: an ill-formed term for each check (95_test_vectors.md section 2.1, 30_encoding.md sections 4 and 5) -/

theorem test_indexInRange_refuses : CmdWord.indexInRange 0x2000#16 = false := by decide
theorem test_flagReservedZero_refuses : CmdWord.flagReservedZero 0x4010#16 = false := by decide
theorem test_readLowZero_refuses : CmdWord.readLowZero 0x8101#16 = false := by decide
theorem test_eventLowZero_refuses : CmdWord.eventLowZero 0xC001#16 = false := by decide
theorem test_eventKnown_refuses : CmdWord.eventKnown 0xC300#16 = false := by decide

/-- The refused words of the table in section 2.1. -/
theorem test_wellFormed_refuses :
    ([0x2000#16, 0x3F00#16, 0x4010#16, 0x6000#16, 0x8101#16, 0xA000#16, 0xC001#16, 0xC300#16, 0xFF00#16].map
      CmdWord.wellFormed).all (· == false) = true := by decide

theorem test_ratio_refuses : Ratio.wellFormed ⟨1, 0⟩ = false := by decide
theorem test_duration_refuses : Duration.wellFormed (.ms ⟨1, 0⟩) = false := by decide
theorem test_tickN_refuses : Pseudo.wellFormed (.tickN 0) = false := by decide
theorem test_enable_refuses : Pseudo.wellFormed (.enable 256) = false := by decide
theorem test_periodP_refuses : ([.periodP 2 0 0, .periodP 0 0x800 0, .periodP 0 0 32].map
    Pseudo.wellFormed).all (· == false) = true := by decide
theorem test_noteP_refuses :
    ([.noteP 2 ⟨440, 1⟩ .hold true 0 0, .noteP 0 ⟨440, 0⟩ .hold true 0 0, .noteP 0 ⟨0, 1⟩ .hold true 0 0,
      .noteP 0 ⟨440, 1⟩ (.ms ⟨1, 0⟩) true 0 0, .noteP 0 ⟨440, 1⟩ .hold true 16 0,
      .noteP 0 ⟨440, 1⟩ .hold true 0 4].map Pseudo.wellFormed).all (· == false) = true := by decide
theorem test_noteT_refuses : ([.noteT ⟨440, 0⟩ .hold, .noteT ⟨0, 1⟩ .hold, .noteT ⟨440, 1⟩ (.ms ⟨1, 0⟩)].map
    Pseudo.wellFormed).all (· == false) = true := by decide

/-! ### Decoding: a word written out from R51 to R54 for every constructor

A WRITE is `00 0 aaaaa dddddddd`, WF `01 0 aaaaa 0000 v bbb`, R `10 0 aaaaa 00000000`, E `11 eeeeee 00000000`. -/

theorem test_decode_w4000 : decode ⟨0b0000000010011111#16, 0#64⟩ = .ok (.w4000 0x9F#8) := by decide
theorem test_decode_w4001 : decode ⟨0b0000000110100001#16, 0#64⟩ = .ok (.w4001 0xA1#8) := by decide
theorem test_decode_w4002 : decode ⟨0b0000001011111101#16, 0#64⟩ = .ok (.w4002 0xFD#8) := by decide
theorem test_decode_w4003 : decode ⟨0b0000001100001001#16, 0#64⟩ = .ok (.w4003 0x09#8) := by decide
theorem test_decode_w4004 : decode ⟨0b0000010010111111#16, 0#64⟩ = .ok (.w4004 0xBF#8) := by decide
theorem test_decode_w4005 : decode ⟨0b0000010110001011#16, 0#64⟩ = .ok (.w4005 0x8B#8) := by decide
theorem test_decode_w4006 : decode ⟨0b0000011000001000#16, 0#64⟩ = .ok (.w4006 0x08#8) := by decide
theorem test_decode_w4007 : decode ⟨0b0000011100000111#16, 0#64⟩ = .ok (.w4007 0x07#8) := by decide
theorem test_decode_w4008 : decode ⟨0b0000100011111111#16, 0#64⟩ = .ok (.w4008 0xFF#8) := by decide
theorem test_decode_w4009 : decode ⟨0b0000100101010101#16, 0#64⟩ = .ok (.w4009 0x55#8) := by decide
theorem test_decode_w400A : decode ⟨0b0000101001111110#16, 0#64⟩ = .ok (.w400A 0x7E#8) := by decide
theorem test_decode_w400B : decode ⟨0b0000101111111001#16, 0#64⟩ = .ok (.w400B 0xF9#8) := by decide
theorem test_decode_w400C : decode ⟨0b0000110000011010#16, 0#64⟩ = .ok (.w400C 0x1A#8) := by decide
theorem test_decode_w400D : decode ⟨0b0000110100000001#16, 0#64⟩ = .ok (.w400D 0x01#8) := by decide
theorem test_decode_w400E : decode ⟨0b0000111010000011#16, 0#64⟩ = .ok (.w400E 0x83#8) := by decide
theorem test_decode_w400F : decode ⟨0b0000111100011000#16, 0#64⟩ = .ok (.w400F 0x18#8) := by decide
theorem test_decode_w4010 : decode ⟨0b0001000010001111#16, 0#64⟩ = .ok (.w4010 0x8F#8) := by decide
theorem test_decode_w4011 : decode ⟨0b0001000101111111#16, 0#64⟩ = .ok (.w4011 0x7F#8) := by decide
theorem test_decode_w4012 : decode ⟨0b0001001010000000#16, 0#64⟩ = .ok (.w4012 0x80#8) := by decide
theorem test_decode_w4013 : decode ⟨0b0001001101000000#16, 0#64⟩ = .ok (.w4013 0x40#8) := by decide
theorem test_decode_w4014 : decode ⟨0b0001010000100000#16, 0#64⟩ = .ok (.w4014 0x20#8) := by decide
theorem test_decode_w4015 : decode ⟨0b0001010100001111#16, 0#64⟩ = .ok (.w4015 0x0F#8) := by decide
theorem test_decode_w4016 : decode ⟨0b0001011001010101#16, 0#64⟩ = .ok (.w4016 0x55#8) := by decide
theorem test_decode_w4017 : decode ⟨0b0001011110000000#16, 0#64⟩ = .ok (.w4017 0x80#8) := by decide
theorem test_decode_w4018 : decode ⟨0b0001100000010001#16, 0#64⟩ = .ok (.w4018 0x11#8) := by decide
theorem test_decode_w4019 : decode ⟨0b0001100100100010#16, 0#64⟩ = .ok (.w4019 0x22#8) := by decide
theorem test_decode_w401A : decode ⟨0b0001101000110011#16, 0#64⟩ = .ok (.w401A 0x33#8) := by decide
theorem test_decode_w401B : decode ⟨0b0001101101000100#16, 0#64⟩ = .ok (.w401B 0x44#8) := by decide
theorem test_decode_w401C : decode ⟨0b0001110001100110#16, 0#64⟩ = .ok (.w401C 0x66#8) := by decide
theorem test_decode_w401D : decode ⟨0b0001110101110111#16, 0#64⟩ = .ok (.w401D 0x77#8) := by decide
theorem test_decode_w401E : decode ⟨0b0001111010001000#16, 0#64⟩ = .ok (.w401E 0x88#8) := by decide
theorem test_decode_w401F : decode ⟨0b0001111111111110#16, 0#64⟩ = .ok (.w401F 0xFE#8) := by decide
theorem test_decode_writeFlag : decode ⟨0b0101010100001011#16, 0#64⟩ = .ok (.writeFlag 0x15#5 3#3 true) := by decide
theorem test_decode_writeFlag_clear : decode ⟨0b0100000000000110#16, 0#64⟩ = .ok (.writeFlag 0x00#5 6#3 false) := by decide
theorem test_decode_read : decode ⟨0b1001010100000000#16, 0#64⟩ = .ok (.read 0x15#5) := by decide
theorem test_decode_tick : decode ⟨0b1100000000000000#16, 0#64⟩ = .ok .tick := by decide
theorem test_decode_pop : decode ⟨0b1100000100000000#16, 0#64⟩ = .ok .pop := by decide
theorem test_decode_setGain : decode ⟨0b1100001000000000#16, 0x3FE0000000000000#64⟩ =
    .ok (.setGain 0x3FE0000000000000#64) := by decide

/-- The refused words of section 2.1, each with its reason. -/
theorem test_decode_refused :
    decode ⟨0x2000#16, 0#64⟩ = .error .indexOutOfRange ∧ decode ⟨0x3F00#16, 0#64⟩ = .error .indexOutOfRange ∧
      decode ⟨0x4010#16, 0#64⟩ = .error .flagReservedBits ∧ decode ⟨0x6000#16, 0#64⟩ = .error .indexOutOfRange ∧
      decode ⟨0x8101#16, 0#64⟩ = .error .readLowByte ∧ decode ⟨0xA000#16, 0#64⟩ = .error .indexOutOfRange ∧
      decode ⟨0xC001#16, 0#64⟩ = .error .eventLowByte ∧ decode ⟨0xC300#16, 0#64⟩ = .error .reservedEvent ∧
      decode ⟨0xFF00#16, 0#64⟩ = .error .reservedEvent := by decide

/-- Lines of section 2.1 encode to their words. -/
theorem test_encode :
    (encode (.w4003 0x09#8)).word = 0x0309#16 ∧ (encode (.writeFlag 0x15#5 3#3 true)).word = 0x550B#16 ∧
      (encode (.writeFlag 0x00#5 6#3 false)).word = 0x4006#16 ∧ (encode (.read 0x15#5)).word = 0x9500#16 ∧
      (encode .pop).word = 0xC100#16 := by decide

/-! ### Single steps -/

/-- Commands run one after another from a state: a way to build a small state. -/
def after : List Instr → State → State
  | [], s => s
  | i :: is, s =>
    match exec i s with
    | .next t => after is t
    | _ => s

/-- The pulse steps 1 to 4 of section 2.3. -/
def pulseState : State := after [.w4000 0xBF#8, .w4001 0xA1#8, .w4002 0xFD#8] State.reset

theorem test_w4000 : (after [.w4000 0xBF#8] State.reset).p0.env = ⟨⟨15, 0, true⟩, true, true, true, 15#4, 0#4⟩ ∧
    (after [.w4000 0xBF#8] State.reset).p0.duty = 2#2 ∧
    (after [.w4000 0xBF#8] State.reset).p0.len.halt = true := by decide
theorem test_w4001 : (after [.w4001 0xA1#8] State.reset).p0.sweep = ⟨⟨2, 2, true⟩, true, false, 1#3⟩ := by decide
theorem test_w4002 : (after [.w4002 0xFD#8] State.reset).p0.raw = 253 ∧
    (after [.w4002 0xFD#8] State.reset).p0.timer = ⟨253, 253, true⟩ := by decide
/-- Also E9. -/
theorem test_w4003 : (after [.w4003 0x09#8] pulseState).p0.raw = 509 ∧
    (after [.w4003 0x09#8] pulseState).p0.timer = ⟨509, 509, true⟩ ∧
    (after [.w4003 0x09#8] pulseState).p0.len = ⟨⟨254, 254, false⟩, true⟩ := by decide
/-- Program P3: W $4004, #$BF. -/
theorem test_w4004 : (after [.w4004 0xBF#8] State.reset).p1.duty = 2#2 ∧
    (after [.w4004 0xBF#8] State.reset).p1.env.volume = 15#4 ∧
    (after [.w4004 0xBF#8] State.reset).p0 = Pulse.reset := by decide
/-- Program P3: sweep enabled, period 0, negate 1, shift 3. -/
theorem test_w4005 : (after [.w4005 0x8B#8] State.reset).p1.sweep = ⟨⟨0, 0, true⟩, true, true, 3#3⟩ := by decide
/-- Section 2.3 step 5. -/
theorem test_w4006_w4007 : (after [.w4007 0x00#8] (after [.w4006 0x05#8] State.reset)).p1.raw = 5 ∧
    (after [.w4007 0x00#8] (after [.w4006 0x05#8] State.reset)).p1.len.div.count = 10 := by decide
/-- Section 2.4 steps 1 to 3. -/
theorem test_w4008 : (after [.w4008 0xFF#8] State.reset).tri.lin = ⟨⟨127, 127, false⟩, true⟩ ∧
    (after [.w4008 0xFF#8] State.reset).tri.len.halt = true := by decide
theorem test_w400A : (after [.w400A 0x7E#8] State.reset).tri.raw = 126 ∧
    (after [.w400A 0x7E#8] State.reset).tri.timer = ⟨126, 126, true⟩ := by decide
theorem test_w400B :
    (after [.w400B 0x08#8] (after [.w400A 0x7E#8, .w4008 0x10#8] State.reset)).tri.len.div.count = 254 ∧
      (after [.w400B 0x08#8] (after [.w400A 0x7E#8, .w4008 0x10#8] State.reset)).tri.raw = 126 ∧
      (after [.w400B 0x08#8] (after [.w400A 0x7E#8, .w4008 0x10#8] State.reset)).tri.lin.div.count = 16 := by decide
/-- Section 2.5 steps 1 to 3. -/
theorem test_w400C : (after [.w400C 0x1A#8] State.reset).noise.env =
    ⟨⟨10, 0, true⟩, true, true, false, 10#4, 0#4⟩ := by decide
theorem test_w400E : (after [.w400E 0x83#8] State.reset).noise.timer = ⟨32, 32, true⟩ ∧
    (after [.w400E 0x83#8] State.reset).noise.lfsr = ⟨0x4000#15, true⟩ ∧
    (after [.w400E 0x83#8] State.reset).noise.pidx = 3#4 := by decide
theorem test_w400F : (after [.w400F 0x18#8] State.reset).noise.len.div.count = 2 := by decide
/-- E12. -/
theorem test_w4015 : (after [.w4015 0x05#8] State.reset).p0.enabled = true ∧
    (after [.w4015 0x05#8] State.reset).p1.enabled = false ∧
    (after [.w4015 0x05#8] State.reset).tri.enabled = true ∧
    (after [.w4015 0x05#8] State.reset).noise.enabled = false := by decide
/-- Section 2.6: 5-step mode from the next tick, `fc` kept, bit 6 without effect. -/
theorem test_w4017 : (after [.w4017 0xC0#8] State.reset).mode5 = true ∧
    (after [.w4017 0xC0#8] State.reset).fc = 0 := by decide
/-- Section 2.6 for $4010 and $4016; the other store-only registers by rule R110. -/
theorem test_store_only : (after [.w4010 0x8F#8, .read 0x10#5] State.reset).reads = [0x8F#8] ∧
    (after [.w4016 0x55#8, .read 0x16#5] State.reset).reads = [0x55#8] ∧
    (after [.w4010 0x8F#8] State.reset).p0 = Pulse.reset := by decide

theorem test_w4009 : (after [.w4009 0x31#8] State.reset).getReg 0x09#5 = 0x31#8 := by decide
theorem test_w400D : (after [.w400D 0x32#8] State.reset).getReg 0x0D#5 = 0x32#8 := by decide
theorem test_w4011 : (after [.w4011 0x33#8] State.reset).getReg 0x11#5 = 0x33#8 := by decide
theorem test_w4012 : (after [.w4012 0x34#8] State.reset).getReg 0x12#5 = 0x34#8 := by decide
theorem test_w4013 : (after [.w4013 0x35#8] State.reset).getReg 0x13#5 = 0x35#8 := by decide
theorem test_w4014 : (after [.w4014 0x36#8] State.reset).getReg 0x14#5 = 0x36#8 := by decide
theorem test_w4018 : (after [.w4018 0x37#8] State.reset).getReg 0x18#5 = 0x37#8 := by decide
theorem test_w4019 : (after [.w4019 0x38#8] State.reset).getReg 0x19#5 = 0x38#8 := by decide
theorem test_w401A : (after [.w401A 0x39#8] State.reset).getReg 0x1A#5 = 0x39#8 := by decide
theorem test_w401B : (after [.w401B 0x3A#8] State.reset).getReg 0x1B#5 = 0x3A#8 := by decide
theorem test_w401C : (after [.w401C 0x3B#8] State.reset).getReg 0x1C#5 = 0x3B#8 := by decide
theorem test_w401D : (after [.w401D 0x3C#8] State.reset).getReg 0x1D#5 = 0x3C#8 := by decide
theorem test_w401E : (after [.w401E 0x3D#8] State.reset).getReg 0x1E#5 = 0x3D#8 := by decide
theorem test_w401F : (after [.w401F 0x3E#8] State.reset).getReg 0x1F#5 = 0x3E#8 := by decide

/-- Section 2.6: with reg[0x15] = 0x01, WF $4015, 3, 1 writes 0x09. -/
theorem test_writeFlag_enable :
    (after [.writeFlag 0x15#5 3#3 true] (after [.w4015 0x01#8] State.reset)).getReg 0x15#5 = 0x09#8 ∧
      (after [.writeFlag 0x15#5 3#3 true] (after [.w4015 0x01#8] State.reset)).p0.enabled = true ∧
      (after [.writeFlag 0x15#5 3#3 true] (after [.w4015 0x01#8] State.reset)).noise.enabled = true ∧
      (after [.writeFlag 0x15#5 3#3 true] (after [.w4015 0x01#8] State.reset)).tri.enabled = false := by decide
/-- Section 2.6: with reg[0x00] = 0x9F, WF $4000, 6, 1 writes 0xDF and the duty becomes 3. -/
theorem test_writeFlag_control :
    (after [.writeFlag 0x00#5 6#3 true] (after [.w4000 0x9F#8] State.reset)).getReg 0x00#5 = 0xDF#8 ∧
      (after [.writeFlag 0x00#5 6#3 true] (after [.w4000 0x9F#8] State.reset)).p0.duty = 3#2 ∧
      (after [.writeFlag 0x00#5 6#3 true] (after [.w4000 0x9F#8] State.reset)).p0.env.start = true := by decide
/-- Section 2.6: from reset, R $4015 returns 0x00. -/
theorem test_read_reset : (after [.read 0x15#5] State.reset).reads = [0x00#8] := by decide
/-- Section 2.6: GAIN 0.5 and GAIN -1.0. -/
theorem test_setGain : (after [.setGain 0x3FE0000000000000#64] State.reset).gain = 0x3FE0000000000000#64 ∧
    (after [.setGain 0xBFF0000000000000#64] State.reset).gain = 0xBFF0000000000000#64 := by decide
/-- Sections 2.6 and 2.7: GAIN NaN and GAIN -inf are refused with their bits. -/
theorem test_setGain_refused :
    (after [.setGain 0x7FF8000000000000#64] State.reset).gain = gainInit ∧
      (after [.setGain 0x7FF8000000000000#64] State.reset).marks =
        ⟨true, false, [.nonFiniteGain 0x7FF8000000000000#64]⟩ ∧
      (after [.setGain 0xFFF0000000000000#64] State.reset).marks.refused = true := by decide

/-- Section 2.6: the first TICK from reset; V-F and P2: both frame events, acc 96000, no sample, fc 1. -/
theorem test_tick_reset : (after [.tick] State.reset).fc = 1 ∧ (after [.tick] State.reset).acc = 96000 ∧
    (after [.tick] State.reset).fifo = Fifo.reset ∧ (after [.tick] State.reset).p0.timer = ⟨0, 0, true⟩ ∧
    (after [.tick] State.reset).noise.lfsr = ⟨0x2000#15, false⟩ := by decide
/-- Section 2.6: in 5-step mode the tick at fc 18640 wraps, and the quiet point fires nothing. -/
theorem test_tick_wraps :
    (after [.tick] { State.reset with fc := 14914 }).fc = 0 ∧
      (after [.tick] (after [.w4017 0x80#8] { State.reset with fc := 18640 })).fc = 0 ∧
      (after [.tick] (after [.w4017 0x80#8] { State.reset with fc := 14914 })).fc = 14915 ∧
      schedule true 14915 = (false, false) := by decide

/-- Program P4 in the small: with three samples buffered and a chunk of two (V-F3 across the wrap). -/
theorem test_popChunk_wrap :
    (popChunk 2 { State.reset with
      fifo := ⟨[(0, 0xFF#8), (1, 0xFF#8), (191998, 0x34#8), (191999, 0x12#8)], 2, 191998, 4, false⟩ }).chunks =
        [[0x1234#16, 0xFFFF#16]] ∧
      (popChunk 2 { State.reset with
        fifo := ⟨[(0, 0xFF#8), (1, 0xFF#8), (191998, 0x34#8), (191999, 0x12#8)], 2, 191998, 4, false⟩ }).fifo.rHead =
          2 := by decide
/-- Section 2.7: POP holds while less than one chunk is buffered (P4, last POP: fill 2 < 4). -/
theorem test_popChunk_holds : popChunk 2 { State.reset with fifo := ⟨[], 2, 0, 2, false⟩ } =
    { State.reset with fifo := ⟨[], 2, 0, 2, false⟩ } := by decide
/-- V-F1. -/
theorem test_push_wrap : (Fifo.push ⟨[], 191998, 191998, 0, false⟩ 4895#16) =
    ⟨[(191998, 0x1F#8), (191999, 0x13#8)], 0, 191998, 2, false⟩ := by decide
/-- V-F2: -20703 is 0xAF21. -/
theorem test_push_negative : (Fifo.push Fifo.reset (BitVec.ofInt 16 (-20703))).buf = [(0, 0x21#8), (1, 0xAF#8)] := by
  decide

/-! ### Primitives and channels -/

/-- E3: the first clocks of the two modes. -/
theorem test_lfsr : (Lfsr.clock^[14] ⟨0x4000#15, false⟩).shift = 0x4001#15 ∧
    (Lfsr.clock^[9] ⟨0x4000#15, true⟩).shift = 0x4020#15 ∧ (⟨0x4000#15, false⟩ : Lfsr).gate = true := by decide
/-- The sweep table of section 2.2. -/
theorem test_sweepAdjust :
    sweepAdjust .p0 0x100 ⟨⟨0, 0, true⟩, true, false, 2#3⟩ = .set 320 ∧
      sweepAdjust .p0 0x100 ⟨⟨0, 0, true⟩, true, true, 2#3⟩ = .set 192 ∧
      sweepAdjust .p1 0x100 ⟨⟨0, 0, true⟩, true, true, 2#3⟩ = .set 191 ∧
      sweepAdjust .p0 0x3FF ⟨⟨0, 0, true⟩, true, false, 0#3⟩ = .set 2046 ∧
      sweepAdjust .p0 0x400 ⟨⟨0, 0, true⟩, true, false, 0#3⟩ = .mute ∧
      sweepAdjust .p1 0x100 ⟨⟨0, 0, true⟩, true, true, 0#3⟩ = .mute ∧
      sweepAdjust .p0 9 ⟨⟨0, 0, true⟩, true, true, 3#3⟩ = .set 8 ∧
      sweepAdjust .p0 8 ⟨⟨0, 0, true⟩, true, true, 3#3⟩ = .mute := by decide
/-- Section 2.2: a halted counter does not count; the result is true on 1 to 0. -/
theorem test_length_clock : LengthCounter.clock ⟨⟨2, 2, false⟩, false⟩ = (⟨⟨2, 1, false⟩, false⟩, false) ∧
    LengthCounter.clock ⟨⟨2, 1, false⟩, false⟩ = (⟨⟨2, 0, false⟩, false⟩, true) ∧
    LengthCounter.clock ⟨⟨5, 5, false⟩, true⟩ = (⟨⟨5, 5, false⟩, true⟩, false) := by decide
/-- Section 2.4 steps 4 and 6. -/
theorem test_triangle : ({ Triangle.reset with seq := ⟨31⟩ } : Triangle).clock.seq = ⟨1⟩ ∧
    ({ Triangle.reset with
        enabled := true, len := ⟨⟨1, 1, false⟩, false⟩, lin := ⟨⟨1, 1, false⟩, false⟩,
        seq := ⟨20⟩ } : Triangle).get = 4#4 := by decide
/-- E2 with v = 2: decay 15, 15, 15, 14 after the clocks 1 to 4. -/
theorem test_envelope : ((List.range 5).map fun n => (Envelope.clock^[n] (Envelope.reset.load 2#4 false false)).decay) =
    [0#4, 15#4, 15#4, 15#4, 14#4] := by decide

/-! ### Mixer and assembler -/

/-- E11 and V-M4: all four channels at 15, and (8, 0, 0, 0) at gain 0.5. -/
theorem test_mix_all : mixPcm 15#4 15#4 15#4 15#4 gainInit = 20703 := by decide +kernel
theorem test_mix_gain : mixPcm 8#4 0#4 0#4 0#4 0x3FE0000000000000#64 = 1408 ∧
    mixPcm 15#4 15#4 15#4 15#4 0xC000000000000000#64 = -32767 := by decide +kernel
/-- Section 2.9. -/
theorem test_noteP : expand (.noteP 0 ⟨440, 1⟩ (.ms ⟨100, 1⟩) true 15 2) =
    some [.w4000 0x9F#8, .w4002 0xFD#8, .w4003 0x68#8] := by decide +kernel
theorem test_noteP_hold : expand (.noteP 1 ⟨55, 1⟩ .hold false 3 1) =
    some [.w4004 0x63#8, .w4006 0xF1#8, .w4007 0x07#8] := by decide +kernel
theorem test_noteP_low : expand (.noteP 0 ⟨50, 1⟩ (.ms ⟨100, 1⟩) true 15 2) = none := by decide +kernel
theorem test_noteT : expand (.noteT ⟨110, 1⟩ (.ms ⟨250, 1⟩)) =
    some [.w4008 0x7F#8, .w400A 0xFB#8, .w400B 0xF9#8] := by decide +kernel
theorem test_periodP : expand (.periodP 1 0x1FD 1) = some [.w4006 0xFD#8, .w4007 0x09#8] := by decide
theorem test_line_note : assembleLine "NOTE.T 110, 250 ; a low A" =
    some [.w4008 0x7F#8, .w400A 0xFB#8, .w400B 0xF9#8] := by decide +kernel
/-- Section 2.1. -/
theorem test_lines : assembleLine "W $4003, #$09" = some [.w4003 0x09#8] ∧
    assembleLine "WF $4015, 3, 1" = some [.writeFlag 0x15#5 3#3 true] ∧
    assembleLine "R $4015" = some [.read 0x15#5] ∧ assembleLine "POP" = some [.pop] ∧
    assembleLine "TICK" = some [.tick] := by decide +kernel
theorem test_line_gain : assembleLine "GAIN 0.5" = some [.setGain 0x3FE0000000000000#64] := by decide +kernel
/-- Section 2.7: construction. -/
theorem test_construction : constructParams ⟨1789773, 48000, 7, 1⟩ = none ∧
    constructParams ⟨1789773, 48000, 0, 1⟩ = none ∧ constructParams ⟨1789773, 48000, 8, 0⟩ = none ∧
    constructParams ⟨1789773, 48000, 8, 5⟩ = none ∧
    constructParams ⟨1789773, 48000, 8, 2⟩ = some ⟨1789773, 48000, 8, 2⟩ := by decide

/-! ### The step -/

/-- With nothing pending nothing happens (log 1). -/
theorem test_step_idle : step State.reset = .next State.reset := rfl
/-- Section 2.1: W $4003, #$09 placed first is what the next step runs. -/
theorem test_step_placed : step (State.reset.withFetchWord 16 0x0309) = exec (.w4003 0x09#8) State.reset := rfl
/-- Section 2.7: a refused word. -/
theorem test_step_refused : step (State.reset.withFetchWord 16 0x2000) =
    .next { State.reset with marks := ⟨true, false, [.undecodableWord 0x2000#16]⟩ } := rfl
/-- A step from a state that breaks an invariant marks the fault (rule R134), and the next one stops. -/
theorem test_step_fault : step { State.reset with acc := 1789773, stream := [tickCommand] } =
      .next { State.reset with acc := 1789773, stream := [tickCommand], marks := ⟨false, true, []⟩ } ∧
    step { State.reset with stream := [tickCommand], marks := ⟨false, true, []⟩ } = .fault .stopped := ⟨rfl, rfl⟩


/-! ### Witnesses: states that meet the hypotheses of the obligations -/

/-- A state that is not the reset state and meets the invariants: one sample buffered, a sample due, a refusal recorded, one TICK
pending. -/
def dueState : State :=
  { State.reset with
    fc := 7456
    acc := 1693773
    fifo := ⟨[(0, 0x34#8), (1, 0x12#8)], 2, 0, 2, false⟩
    marks := ⟨true, false, [.undecodableWord 0x2000#16]⟩
    stream := [tickCommand] }

/-- A full ring buffer with a sample due. -/
def fullState : State := { State.reset with acc := 1693773, fifo := ⟨[], 0, 0, 192000, false⟩ }

theorem wf_of_broken {s : State} (h : s.broken = false) : s.Wf := State.broken_eq_false.1 h

theorem test_witness_wf : dueState.Wf ∧ dueState.marks.fault = false := ⟨wf_of_broken rfl, rfl⟩

theorem test_witness_inv : dueState.Inv :=
  ⟨wf_of_broken rfl, rfl, rfl, rfl, rfl, by decide, by decide⟩

/-- EncodeOfDecodeIsTheWord: a word of every format. -/
theorem test_witness_EncodeOfDecode : decode ⟨0xC200#16, 5#64⟩ = .ok (.setGain 5#64) ∧
    decode ⟨0x1FFF#16, 5#64⟩ = .ok (.w401F 0xFF#8) ∧ decode ⟨0x5F0F#16, 5#64⟩ = .ok (.writeFlag 0x1F#5 7#3 true) ∧
    decode ⟨0x9F00#16, 5#64⟩ = .ok (.read 0x1F#5) := by decide

/-- RefusedWordsAreTheFiveCases: each of the five cases has a word, at the edge of its range. -/
theorem test_witness_RefusedWords : (0x2000 / 2 ^ 14 ≠ 3 ∧ (0x2000#16).getLsbD 13 = true) ∧
    (0x4010 / 2 ^ 14 = 1 ∧ 0x4010 / 16 % 16 ≠ 0) ∧ (0x8001 / 2 ^ 14 = 2 ∧ 0x8001 % 256 ≠ 0) ∧
    (0xC001 / 2 ^ 14 = 3 ∧ 0xC001 % 256 ≠ 0) ∧ (0xC300 / 2 ^ 14 = 3 ∧ 3 ≤ 0xC300 / 256 % 64) := by decide

/-- StepRunsTheDecodedCommand. -/
theorem test_witness_StepRuns : dueState.stream = [tickCommand] ∧ dueState.Wf ∧ dueState.marks.fault = false ∧
    decode tickCommand = .ok .tick := ⟨rfl, wf_of_broken rfl, rfl, by decide⟩

/-- StepRefusesAnUndecodableWord. -/
theorem test_witness_StepRefuses : (dueState.withFetchWord 16 0xC300).stream = [⟨0xC300#16, 0#64⟩, tickCommand] ∧
    (dueState.withFetchWord 16 0xC300).Wf ∧ (dueState.withFetchWord 16 0xC300).marks.fault = false ∧
    decode ⟨0xC300#16, 0#64⟩ = .error .reservedEvent := ⟨rfl, wf_of_broken rfl, rfl, by decide⟩

/-- StepFaultsOnABrokenInvariant, first clause: the accumulator at the first value that breaks its bound. -/
theorem test_witness_StepFaults_broken : ({ dueState with acc := 1789773 } : State).stream ≠ [] ∧
    ({ dueState with acc := 1789773 } : State).marks.fault = false ∧ ¬ ({ dueState with acc := 1789773 } : State).Wf :=
  ⟨by decide, rfl, State.broken_eq_true.1 rfl⟩

/-- StepFaultsOnABrokenInvariant, second clause. -/
theorem test_witness_StepFaults_marked : ({ dueState with marks := ⟨false, true, []⟩ } : State).stream ≠ [] ∧
    ({ dueState with marks := ⟨false, true, []⟩ } : State).marks.fault = true := ⟨by decide, rfl⟩

/-- SoundMachineAlwaysSteps. -/
theorem test_witness_SoundMachine : dueState.Wf ∧ dueState.marks.fault = false := test_witness_wf

/-- MarksAreNeverCleared: a step of a state whose refused mark is set, and one that sets the fault mark. -/
theorem test_witness_Marks : dueState.marks.refused = true ∧ (∃ t, step dueState = .next t) ∧
    (∃ t, step { dueState with acc := 1789773 } = .next t) := ⟨rfl, ⟨_, rfl⟩, ⟨_, rfl⟩⟩

/-- SetGainSetsOrRefuses: the largest finite value, and the infinity next to it. -/
theorem test_witness_SetGain : (0x7FEFFFFFFFFFFFFF#64).extractLsb' 52 11 ≠ 0x7FF#11 ∧
    (0x7FF0000000000000#64).extractLsb' 52 11 = 0x7FF#11 := by decide

/-- TickHoldsOnAFullBuffer: the smallest accumulator with a sample due. -/
theorem test_witness_TickHolds : 1789773 ≤ fullState.acc + 96000 ∧ 192000 - 2 < fullState.fifo.fill := by
  constructor <;> decide

/-- TickRunsFrameEventsClocksAndSchedule: both ways to run at their boundary, and each kind of `fc`. -/
theorem test_witness_TickRuns :
    ({ fullState with acc := 1693772 } : State).acc + 96000 < 1789773 ∧ dueState.fifo.fill ≤ 192000 - 2 ∧
      ({ fullState.fifo with fill := 191998 } : Fifo).fill ≤ 192000 - 2 ∧
      1789773 ≤ dueState.acc + 96000 ∧ fullState.fc = 0 ∧ dueState.fc = 7456 ∧ ({ dueState with fc := 11185 } : State).fc = 11185 ∧
      ({ dueState with fc := 14915 } : State).fc ∉ [0, 3729, 7456, 11185] := by decide

/-- The channel and counter clauses of TickRunsFrameEventsClocksAndSchedule: a record for each case, at the edges of the counts. -/
theorem test_witness_TickFields :
    (⟨1, 0, true⟩ : Divider).loop = true ∧ (⟨1, 0, true⟩ : Divider).count = 0 ∧ (⟨1, 1, true⟩ : Divider).count ≠ 0 ∧
      (⟨0, 0, true⟩ : Divider).period = 0 ∧ (⟨1, 0, true⟩ : Divider).period ≠ 0 ∧ 2 ≤ (⟨2, 2, true⟩ : Divider).count ∧
      (Envelope.reset.load 2#4 false false).div.loop = true ∧ (Envelope.reset.load 2#4 false false).start = true ∧
      Envelope.reset.start = false ∧ Envelope.reset.div.count = 0 ∧ LengthCounter.reset.div.loop = false ∧
      LengthCounter.reset.halt = false ∧ (⟨⟨5, 5, false⟩, true⟩ : LengthCounter).halt = true := by decide
/-- Section 2.3 step 7, and section 2.4 step 4 with the timer counts around one fire. -/
theorem test_clock_fields :
    ({ Pulse.reset with timer := ⟨1, 0, true⟩, seq := ⟨7⟩ } : Pulse).clock.seq = ⟨0⟩ ∧
      ({ Triangle.reset with timer := ⟨9, 1, true⟩ } : Triangle).clock.timer = ⟨9, 9, true⟩ ∧
      ({ Triangle.reset with timer := ⟨9, 0, true⟩ } : Triangle).clock.timer = ⟨9, 8, true⟩ ∧
      ({ Triangle.reset with timer := ⟨9, 2, true⟩ } : Triangle).clock.seq = ⟨0⟩ := by decide

/-- DueTickStoresOneSample, with one sample's room. -/
theorem test_witness_DueTick : cellsWf dueState.fifo.buf ∧ 1789773 ≤ dueState.acc + 96000 ∧
    dueState.fifo.fill ≤ 192000 - 2 := by decide

/-- EnablesDoNotStopTheChannels. -/
theorem test_witness_Enables : ∃ t, exec .tick dueState = .next t := ⟨_, rfl⟩

/-- SilentTicksPushZeroSamples. -/
theorem test_witness_SilentTicks : dueState.Inv ∧ dueState.silent ∧ ∃ t, exec .tick dueState = .next t :=
  ⟨test_witness_inv, ⟨rfl, rfl, rfl, rfl⟩, ⟨_, rfl⟩⟩

/-- PopHoldsBelowOneChunk, whatever the chunk size. -/
theorem test_witness_PopHolds : State.reset.fifo.fill < 2 * Config.chunkSamples := by
  have h := chunkSamples_pos
  show 0 < 2 * Config.chunkSamples
  omega

/-- PopRemovesTheOldestChunk, whatever the chunk size: a full buffer; and exactly one chunk. -/
theorem test_witness_PopRemoves : 2 * Config.chunkSamples ≤ fullState.fifo.fill ∧
    2 * Config.chunkSamples ≤ ({ State.reset with
      fifo := { Fifo.reset with fill := 2 * Config.chunkSamples } } : State).fifo.fill :=
  ⟨chunkSamples_le, Nat.le_refl _⟩

/-- CoreAndConsumerNeverBothHold. -/
theorem test_witness_NeverBothHold : dueState.Inv := test_witness_inv

/-- DividerClockFiresOrCountsDown: a divider for each case. -/
theorem test_witness_Divider : (⟨5, 0, true⟩ : Divider).count = 0 ∧ (⟨5, 0, false⟩ : Divider).loop = false ∧
    (⟨5, 1, true⟩ : Divider).count ≠ 0 := by decide

/-- LoadedDividerFiresEveryPeriodPlusOne and E1: period 2 fires on the third clock. -/
theorem test_witness_LoadedDivider : (⟨0, 0, true⟩ : Divider).loop = true ∧
    ((fun x : Divider => x.clock.1)^[2] ((⟨0, 0, true⟩ : Divider).load 2)).clock.2 = true ∧
    ((fun x : Divider => x.clock.1)^[1] ((⟨0, 0, true⟩ : Divider).load 2)).clock.2 = false := by decide

/-- EnvelopeDecaysOncePerPeriod. -/
theorem test_witness_Envelope : Envelope.reset.div.loop = true := rfl

/-- SweepSetsOrMutesOnHalfFrames: a channel for each clause, the firing ones at the edges 7, 8, 2047 and 2048 of the target. -/
def sweepPulse (raw : Nat) (en neg : Bool) (count : Nat) (sh : BitVec 3) : Pulse :=
  { Pulse.reset with raw := raw, sweep := ⟨⟨0, count, true⟩, en, neg, sh⟩ }
theorem test_witness_Sweep : (sweepPulse 8 false true 0 3#3).sweep.div.loop = true ∧
    (sweepPulse 8 true true 0 3#3).len.div.loop = false ∧
    (sweepPulse 8 false true 0 3#3).sweep.enabled = false ∧ (sweepPulse 8 true true 1 3#3).sweep.div.count ≠ 0 ∧
    (sweepPulse 8 true true 0 3#3).sweep.enabled = true ∧ (sweepPulse 8 true true 0 3#3).sweep.div.count = 0 ∧
    sweepTarget .p0 8 (sweepPulse 8 true true 0 3#3).sweep = 7 ∧
    sweepTarget .p1 8 (sweepPulse 8 true true 0 3#3).sweep = 6 ∧
    sweepTarget .p0 9 (sweepPulse 9 true true 0 3#3).sweep = 8 ∧
    sweepTarget .p0 1365 (sweepPulse 1365 true false 0 1#3).sweep = 2047 ∧
    sweepTarget .p0 0x400 (sweepPulse 0x400 true false 0 0#3).sweep = 2048 := by decide
/-- Section 2.3 step 9. -/
theorem test_sweep_mutes : ((sweepPulse 8 true true 0 3#3).half .p1).enabled = false ∧
    ((sweepPulse 8 true true 0 3#3).half .p1).raw = 8 := by decide

/-- PulseOutputIsTheGatedEnvelope: a sounding channel at the last index of the table (section 2.3: duty 3, index 7). -/
theorem test_witness_PulseOutput : (7 : Nat) < 8 ∧ ({ Pulse.reset with
      enabled := true, duty := 3#2, raw := 8, len := ⟨⟨10, 10, false⟩, false⟩,
      env := ⟨⟨15, 0, true⟩, false, true, false, 15#4, 0#4⟩, seq := ⟨7⟩ } : Pulse).get = 15#4 := by decide

/-- TriangleOutputIsTheGatedRamp: the last index of the table. -/
theorem test_witness_TriangleOutput : (31 : Nat) < 32 ∧ ({ Triangle.reset with
      enabled := true, len := ⟨⟨1, 1, false⟩, false⟩, lin := ⟨⟨1, 1, false⟩, false⟩,
      seq := ⟨31⟩ } : Triangle).get = 15#4 := by decide

/-- SamplesAreLittleEndian, with the write head at the last pair of bytes. -/
theorem test_witness_LittleEndian : cellsWf ({ dueState.fifo with wHead := 191998 } : Fifo).buf := by decide

/-- ZeroInputsOrZeroGainMixToZero and MixStaysInSampleRange: the largest finite gain. -/
theorem test_witness_finite_gain : f64IsFinite 0x7FEFFFFFFFFFFFFF#64 = true := by decide

/-- MixerComputesTheFormula: the value its third clause speaks of, for all four channels at 15. -/
theorem test_witness_Mixer : ∃ x, x = f64Mul (f64Add (pulseOut ((15#4).toNat + (15#4).toNat))
    (tndOut (15#4).toNat (15#4).toNat)) gainInit := ⟨_, rfl⟩

/-- Section 2.7: the line GAIN NaN is refused with code 2, whatever the bits of its NaN (log 12). -/
theorem test_nan_refused (s : State) : exec (.setGain f64NaN) s = .next (s.refuse (.nonFiniteGain f64NaN)) := by
  rw [exec_setGain, f64IsNaN_nan]
  rfl

/-- RoundingIsToNearestEven: 2^53 + 1 units lie half way between two values, and the even one is taken. -/
theorem test_witness_Rounding : 0 < 1 ∧ f64RoundMag (2 ^ 53 + 1) 1 = 2 ^ 53 ∧ f64RoundMag (2 ^ 53 + 1) 1 < 2047 * 2 ^ 52 ∧
    f64IsFinite gainInit = true ∧ f64Neg gainInit = false := by decide +kernel

/-- EveryStepKeepsTheInvariant. -/
theorem test_witness_KeepsInv : dueState.Inv ∧ ∃ t, step dueState = .next t := ⟨test_witness_inv, ⟨_, rfl⟩⟩

/-- EveryStepKeepsChannelsCoherent: a state with written registers. -/
theorem test_witness_KeepsCoherent :
    State.Coherent { after [.w4000 0xBF#8, .w4005 0x8B#8, .w4008 0x81#8, .w400E 0x83#8, .w4015 0x0F#8] State.reset with
      stream := [tickCommand] } ∧
    ∃ t, step { after [.w4000 0xBF#8, .w4005 0x8B#8, .w4008 0x81#8, .w400E 0x83#8, .w4015 0x0F#8] State.reset with
      stream := [tickCommand] } = .next t := by
  refine ⟨⟨?_, ?_, ?_, ?_⟩, ⟨_, rfl⟩⟩
  · exact ⟨rfl, rfl, rfl, rfl, rfl, rfl, rfl, rfl, rfl, rfl, rfl, fun _ => rfl⟩
  · exact ⟨rfl, rfl, rfl, rfl, rfl, rfl, rfl, rfl, rfl, rfl, rfl, fun _ => rfl⟩
  · exact ⟨rfl, rfl, rfl, rfl, rfl, rfl⟩
  · exact ⟨rfl, rfl, rfl, rfl, rfl, rfl, rfl, rfl⟩

/-- OnlyTheNamedCommandsChangeSharedState: a command that changes the registers, and one that changes the counters. -/
theorem test_witness_OnlyNamed : (after [.w4010 0x8F#8] State.reset).reg ≠ State.reset.reg ∧
    (after [.tick] State.reset).fc ≠ State.reset.fc ∧ (after [.setGain 0#64] State.reset).gain ≠ State.reset.gain := by
  decide

/-- SampleHistoryGrowsOnlyByDueTicks: both clauses. -/
theorem test_witness_SampleHistory : dueState.Inv ∧ (∃ t, exec .tick dueState = .next t) ∧
    1789773 ≤ dueState.acc + 96000 ∧ dueState.fifo.fill ≤ 192000 - 2 ∧ (∃ t, exec .pop dueState = .next t) :=
  ⟨test_witness_inv, ⟨_, rfl⟩, by decide, by decide, ⟨_, rfl⟩⟩

/-- PoppedSamplesAreAPrefixOfPushedSamples. -/
theorem test_witness_Prefix : dueState.Inv ∧ ∃ t, Sys2Proof.core.run 1 dueState = .next t :=
  ⟨test_witness_inv, ⟨_, rfl⟩⟩

/-- TickRunFollowsTheSampleSchedule: 19 ticks from reset, in which the first sample is produced (section 2.6). -/
theorem test_witness_TickRun :
    ({ State.reset with stream := List.replicate 19 tickCommand } : State).Wf ∧
      ({ State.reset with stream := List.replicate 19 tickCommand } : State).marks.fault = false ∧
      ({ State.reset with stream := List.replicate 19 tickCommand } : State).stream =
        List.replicate 19 tickCommand ++ [] ∧
      0 + 2 * ((0 + 96000 * 19) / 1789773) ≤ 192000 ∧ (0 + 96000 * 19) / 1789773 = 1 ∧
      (0 + 96000 * 19) % 1789773 = 34227 :=
  ⟨wf_of_broken rfl, rfl, rfl, by decide, by decide, by decide⟩

/-- NotePeriodIsTheNearestInteger: 440 Hz on a pulse channel gives 253 (E5). -/
theorem test_witness_NotePeriod : 0 < 16 ∧ 0 < (⟨440, 1⟩ : Ratio).num ∧ 0 < (⟨440, 1⟩ : Ratio).den ∧
    notePeriod 16 ⟨440, 1⟩ = 253 := by decide

end Sys2Proof.Tests
end

/-! PROOFS. The byte order of the ring buffer (20_memory.md section 2, R36). -/

namespace Sys2Proof.Proofs.Memory

open Sys2Proof Sys2Proof.Machine

/-- Two consecutive offsets never name the same byte, across the wrap point too. -/
theorem fifoOffset_succ_ne (a : Nat) : fifoOffset (a + 1) ≠ fifoOffset a := by
  simp only [fifoOffset, fifoCapacity]
  omega

/-- An offset already taken mod `FIFO_CAPACITY` names the same byte as the offset itself (R8). -/
theorem fifoOffset_mod (a : Nat) : fifoOffset (a % 192000) = fifoOffset a := Nat.mod_mod a fifoCapacity

/-- The byte at an offset is the byte at that offset mod `FIFO_CAPACITY` (R35). -/
theorem readByte_mod (f : Fifo) (a : Nat) : f.readByte (a % 192000) = f.readByte a :=
  congrArg (cellsRead f.buf) (fifoOffset_mod a)

/-- The byte at the old write head after a push: the high byte, stored second, does not overwrite it. -/
theorem push_readByte_low (f : Fifo) (hf : cellsWf f.buf) (x : Sample) :
    (f.push x).readByte f.wHead = x.extractLsb' 0 8 := by
  rw [Fifo.push_readByte f hf, if_neg (fifoOffset_succ_ne f.wHead).symm, if_pos rfl]

/-- The byte after the old write head after a push. -/
theorem push_readByte_high (f : Fifo) (hf : cellsWf f.buf) (x : Sample) :
    (f.push x).readByte (f.wHead + 1) = x.extractLsb' 8 8 := by
  rw [Fifo.push_readByte f hf, if_pos rfl]

/-- Settles O46: the two bytes a push stores, the second read through the wrap of its offset, and the two bytes a sample is
read from. -/
theorem samplesAreLittleEndian : Obligations.SamplesAreLittleEndian := by
  intro f x hf
  have low := push_readByte_low f hf x
  have high : (f.push x).readByte ((f.wHead + 1) % 192000) = x.extractLsb' 8 8 := by
    rw [readByte_mod, push_readByte_high f hf]
  exact ⟨low, high, f.readSample_eq⟩

end Sys2Proof.Proofs.Memory

/-! PROOFS. The divider, the sequencer and the noise shift register (40_primitives.md sections 1, 6 and 7; R63, R76, R78). -/

namespace Sys2Proof.Proofs.Primitives

open Sys2Proof Sys2Proof.Machine Function

/-! ### Divider and sequencer -/

/-- Settles O36, by the two guards of the clock: the count, and at 0 the loop flag. -/
theorem dividerClockFiresOrCountsDown : Obligations.DividerClockFiresOrCountsDown := by
  rintro ⟨period, count, loop⟩
  refine ⟨?fires_looping, ?fires_once, ?counts_down⟩
  case fires_looping =>
    rintro rfl rfl
    rfl
  case fires_once =>
    rintro rfl rfl
    rfl
  case counts_down =>
    intro hcount
    exact if_neg hcount

/-- The value a sequencer answers on its clock is the entry of the table at the new index (R78). -/
theorem table_clock_index {α : Type} [Inhabited α] {n : Nat} [NeZero n] (q : Sequencer) (table : Vector α n) :
    table[(q.index + 1) % n]? = some (q.clock table).2 := by
  have hlt : (q.index + 1) % n < n := Nat.mod_lt _ (NeZero.pos n)
  simp only [Sequencer.clock, Sequencer.value, Vector.getElem?_eq_getElem hlt, Option.getD_some]

/-- Settles O40: both tables by the one fact about every table. -/
theorem sequencerClockAdvancesCyclically : Obligations.SequencerClockAdvancesCyclically := fun q =>
  ⟨fun d => ⟨q.clock_index (dutyRow d), table_clock_index q (dutyRow d)⟩,
    q.clock_index triangleTable, table_clock_index q triangleTable⟩

/-! ### One clock of the shift register -/

/-- Two shift registers are the same when their modes and their 15 bits are. -/
theorem lfsr_ext {r q : Lfsr} (hmode : r.mode = q.mode)
    (hbit : ∀ i, i < 15 → r.shift.getLsbD i = q.shift.getLsbD i) : r = q := by
  cases r
  cases q
  cases hmode
  congr
  exact BitVec.eq_of_getLsbD_eq hbit

/-- A bit below the top is the bit above it before the clock (R76). -/
theorem clock_bit_of_lt (r : Lfsr) {i : Nat} (hi : i < 14) : r.clock.shift.getLsbD i = r.shift.getLsbD (i + 1) := by
  simp [r.clock_bit, hi, hi.ne]

/-- The top bit is the feedback (R76). -/
theorem clock_bit_top (r : Lfsr) : r.clock.shift.getLsbD 14 = r.feedback := r.clock_bit 14

/-- State 0 is a fixed point: its feedback is 0 too (R76). -/
theorem clock_shift_zero {r : Lfsr} (h : r.shift = 0#15) : r.clock.shift = 0#15 := by
  simp [Lfsr.clock, Lfsr.feedback, h]

/-- The bit beside bit 0 that the feedback reads: 6 in short mode, 1 in long mode (R76). -/
def tap (mode : Bool) : Nat := if mode then 6 else 1

theorem feedback_eq_tap (r : Lfsr) : r.feedback = (r.shift.getLsbD 0 ^^ r.shift.getLsbD (tap r.mode)) := by
  rw [Lfsr.feedback, tap]
  split <;> rfl

/-- A clock loses nothing: bits 1 to 14 stand one place lower after it, and bit 0 is the feedback without the tapped bit. -/
theorem clock_injective : Injective Lfsr.clock := by
  intro r q h
  have hmode : r.mode = q.mode := by rw [← r.clock_mode, h, q.clock_mode]
  have hhigh : ∀ i, i < 14 → r.shift.getLsbD (i + 1) = q.shift.getLsbD (i + 1) := by
    intro i hi
    rw [← clock_bit_of_lt r hi, h, clock_bit_of_lt q hi]
  have htap : r.shift.getLsbD (tap r.mode) = q.shift.getLsbD (tap q.mode) := by
    rw [hmode]
    cases q.mode with
    | false => exact hhigh 0 (by decide)
    | true => exact hhigh 5 (by decide)
  have hlow : r.shift.getLsbD 0 = q.shift.getLsbD 0 := by
    have hfeed : r.feedback = q.feedback := by rw [← clock_bit_top, h, clock_bit_top]
    rwa [feedback_eq_tap, feedback_eq_tap, htap, Bool.xor_left_inj] at hfeed
  refine lfsr_ext hmode fun i hi => ?_
  cases i with
  | zero => exact hlow
  | succ i => exact hhigh i (by omega)

/-! ### The stream of low bits

Bit `i` after `n` clocks is the low bit after `n + i` clocks, so the stream of low bits holds the register at every time, and the
feedback is a linear recurrence on it. -/

/-- The low bit of the register after `n` clocks. -/
def lowBit (r : Lfsr) (n : Nat) : Bool := (Lfsr.clock^[n] r).shift.getLsbD 0

theorem iterate_clock_mode (r : Lfsr) (n : Nat) : (Lfsr.clock^[n] r).mode = r.mode := by
  induction n with
  | zero => rfl
  | succ n ih => rw [iterate_succ_apply', Lfsr.clock_mode, ih]

/-- A bit of the register is a low bit to come. -/
theorem iterate_clock_bit (r : Lfsr) {i : Nat} (hi : i < 15) (n : Nat) :
    (Lfsr.clock^[n] r).shift.getLsbD i = lowBit r (n + i) := by
  induction i generalizing n with
  | zero => rfl
  | succ i ih =>
    rw [← clock_bit_of_lt _ (by omega : i < 14), ← iterate_succ_apply' Lfsr.clock, ih (by omega), Nat.succ_add_eq_add_succ]

/-- The recurrence of the low bits: the feedback arrives at bit 0 fifteen clocks later. -/
theorem lowBit_add_fifteen (r : Lfsr) (n : Nat) :
    lowBit r (n + 15) = (lowBit r n ^^ lowBit r (n + tap r.mode)) := by
  have htap : tap r.mode < 15 := by rw [tap]; split <;> decide
  rw [show n + 15 = n + 1 + 14 from rfl, ← iterate_clock_bit r (by decide) (n + 1), iterate_succ_apply', clock_bit_top,
    feedback_eq_tap, iterate_clock_mode, iterate_clock_bit r htap]
  rfl

/-- A register is back where it began exactly when 15 low bits in a row are. -/
theorem isPeriodicPt_clock_iff (r : Lfsr) (n : Nat) :
    IsPeriodicPt Lfsr.clock n r ↔ ∀ i, i < 15 → lowBit r (n + i) = lowBit r i := by
  have hstart : ∀ i, i < 15 → r.shift.getLsbD i = lowBit r i := fun i hi => by
    simpa using iterate_clock_bit r hi 0
  constructor
  · intro h i hi
    rw [← iterate_clock_bit r hi, h.eq, hstart i hi]
  · intro h
    refine lfsr_ext (iterate_clock_mode r n) fun i hi => ?_
    rw [iterate_clock_bit r hi, h i hi, hstart i hi]

/-! ### Recurrences with two terms -/

/-- The stream `s` obeys `s (n + a) = s (n + b) ^^ s (n + c)`: modulo its recurrence, `x ^ a = x ^ b + x ^ c` over GF(2). -/
def Recurs (s : Nat → Bool) (a b c : Nat) : Prop := ∀ n, s (n + a) = (s (n + b) ^^ s (n + c))

/-- Squaring over GF(2) has no cross term, so a recurrence holds for the doubled offsets. -/
theorem Recurs.double {s : Nat → Bool} {a b c : Nat} (h : Recurs s a b c) : Recurs s (2 * a) (2 * b) (2 * c) := by
  intro n
  have hcross : s (n + b + c) = s (n + c + b) := by rw [Nat.add_right_comm]
  calc s (n + 2 * a) = s (n + a + a) := by rw [Nat.two_mul, Nat.add_assoc]
    _ = ((s (n + b + b) ^^ s (n + b + c)) ^^ (s (n + c + b) ^^ s (n + c + c))) := by
      rw [h (n + a), Nat.add_right_comm n a b, Nat.add_right_comm n a c, h (n + b), h (n + c)]
    _ = (s (n + b + b) ^^ s (n + c + c)) := by rw [hcross]; simp
    _ = (s (n + 2 * b) ^^ s (n + 2 * c)) := by simp only [Nat.two_mul, Nat.add_assoc]

/-- A recurrence holds for its offsets times any power of 2. -/
theorem Recurs.scale {s : Nat → Bool} {a b c : Nat} (h : Recurs s a b c) (k : Nat) :
    Recurs s (2 ^ k * a) (2 ^ k * b) (2 ^ k * c) := by
  induction k with
  | zero => simpa using h
  | succ k ih => simpa only [pow_succ', Nat.mul_assoc] using ih.double

/-! ### The periods from the seed -/

/-- The register with the seed of R6 in it. -/
def seeded (mode : Bool) : Lfsr := ⟨lfsrSeed, mode⟩

/-- A point comes back after exactly the multiples of `N` when it comes back after `N`, but not after `N / p` for a prime `p`
dividing `N`. -/
theorem isPeriodicPt_iff_dvd {α : Type} {f : α → α} {x : α} {N : Nat} (hN : IsPeriodicPt f N x)
    (hquot : ∀ p, p.Prime → p ∣ N → ¬ IsPeriodicPt f (N / p) x) (n : Nat) : IsPeriodicPt f n x ↔ N ∣ n := by
  obtain ⟨k, hk⟩ := hN.minimalPeriod_dvd
  have hone : k = 1 := by
    by_contra hne
    have hp : k.minFac.Prime := Nat.minFac_prime hne
    refine hquot k.minFac hp (hk ▸ (Nat.minFac_dvd k).mul_left _) ?_
    rw [hk, Nat.mul_div_assoc _ (Nat.minFac_dvd k)]
    exact (isPeriodicPt_minimalPeriod f x).mul_const _
  rw [isPeriodicPt_iff_minimalPeriod_dvd, hk, hone, Nat.mul_one]

/-! #### Long mode -/

/-- In long mode `x ^ 16 = x + x ^ 2`. -/
theorem recurs_long_16 {r : Lfsr} (hr : r.mode = false) : Recurs (lowBit r) 16 1 2 := by
  intro n
  simpa [hr, tap, Nat.add_assoc] using lowBit_add_fifteen r (n + 1)

/-- In long mode `x ^ 256 = x + x ^ 4`, the sixteenth power of `x ^ 16 = x + x ^ 2`. -/
theorem recurs_long_256 {r : Lfsr} (hr : r.mode = false) : Recurs (lowBit r) 256 1 4 := by
  have h16 := recurs_long_16 hr
  have h32 : Recurs (lowBit r) 32 2 4 := h16.scale 1
  have h256 : Recurs (lowBit r) 256 16 32 := h16.scale 4
  intro n
  rw [h256 n, h16 n, h32 n]
  simp

/-- In long mode `x ^ 32768 = x`, whatever the register holds. -/
theorem lowBit_long_add_32768 {r : Lfsr} (hr : r.mode = false) (n : Nat) : lowBit r (n + 32768) = lowBit r (n + 1) := by
  have h16 := recurs_long_16 hr
  have h32 : Recurs (lowBit r) 32 2 4 := h16.scale 1
  have h64 : Recurs (lowBit r) 64 4 8 := h16.scale 2
  have h2048 : Recurs (lowBit r) 2048 8 32 := (recurs_long_256 hr).scale 3
  have h4096 : Recurs (lowBit r) 4096 16 64 := (recurs_long_256 hr).scale 4
  have h32768 : Recurs (lowBit r) 32768 2048 4096 := h16.scale 11
  rw [h32768 n, h2048 n, h4096 n, h32 n, h16 n, h64 n]
  simp [Bool.xor_comm, Bool.xor_left_comm]

/-- Every register in long mode is back after 32767 clocks: it is after 32768 where it is after one, and a clock loses nothing. -/
theorem isPeriodicPt_long {r : Lfsr} (hr : r.mode = false) : IsPeriodicPt Lfsr.clock 32767 r := by
  apply clock_injective
  rw [← iterate_succ_apply' Lfsr.clock]
  refine lfsr_ext (iterate_clock_mode r 32768) fun i hi => ?_
  rw [iterate_clock_bit r hi, Nat.add_comm, lowBit_long_add_32768 hr, Nat.add_comm, ← iterate_clock_bit r hi]
  rfl

/-- From the seed in long mode, bit 5, clear in the seed, is set after each prime quotient of 32767 clocks: the scaled recurrences
lead back to low bits within 150 clocks of the seed. -/
theorem lowBit_seeded_long : lowBit (seeded false) (217 + 5) = true ∧ lowBit (seeded false) (1057 + 5) = true ∧
    lowBit (seeded false) (4681 + 5) = true := by
  have h16 : Recurs (lowBit (seeded false)) 16 1 2 := recurs_long_16 rfl
  have h256 : Recurs (lowBit (seeded false)) 256 1 4 := recurs_long_256 rfl
  have h128 : Recurs (lowBit (seeded false)) 128 8 16 := h16.scale 3
  have h512 : Recurs (lowBit (seeded false)) 512 2 8 := h256.scale 1
  have h1024 : Recurs (lowBit (seeded false)) 1024 4 16 := h256.scale 2
  have h4096 : Recurs (lowBit (seeded false)) 4096 16 64 := h256.scale 4
  refine ⟨?_, ?_, ?_⟩
  · rw [h128 94]
    decide +kernel
  · rw [h1024 38]
    decide +kernel
  · rw [h4096 590, h512 94, h512 142]
    decide +kernel

/-- From the seed in long mode the register is back after exactly the multiples of 32767 clocks. -/
theorem isPeriodicPt_seeded_long (n : Nat) : IsPeriodicPt Lfsr.clock n (seeded false) ↔ 32767 ∣ n := by
  obtain ⟨h217, h1057, h4681⟩ := lowBit_seeded_long
  have hseed : lowBit (seeded false) 5 ≠ true := by decide
  refine isPeriodicPt_iff_dvd (isPeriodicPt_long rfl) (fun p hp hdvd hper => ?_) n
  have hfive := (isPeriodicPt_clock_iff (seeded false) (32767 / p)).1 hper 5 (by decide)
  have hprime : p = 7 ∨ p = 31 ∨ p = 151 := by
    rw [show 32767 = 7 * (31 * 151) from rfl, hp.dvd_mul, hp.dvd_mul] at hdvd
    simpa only [Nat.prime_dvd_prime_iff_eq hp (by norm_num : Nat.Prime 7),
      Nat.prime_dvd_prime_iff_eq hp (by norm_num : Nat.Prime 31),
      Nat.prime_dvd_prime_iff_eq hp (by norm_num : Nat.Prime 151)] using hdvd
  rcases hprime with rfl | rfl | rfl
  · exact hseed (hfive.symm.trans h4681)
  · exact hseed (hfive.symm.trans h1057)
  · exact hseed (hfive.symm.trans h217)

/-! #### Short mode -/

/-- From the seed in short mode the register is back after exactly the multiples of 93 clocks; 93 is small enough to run. -/
theorem isPeriodicPt_seeded_short (n : Nat) : IsPeriodicPt Lfsr.clock n (seeded true) ↔ 93 ∣ n := by
  have hback : IsPeriodicPt Lfsr.clock 93 (seeded true) := by decide +kernel
  refine isPeriodicPt_iff_dvd hback (fun p hp hdvd hper => ?_) n
  have hprime : p = 3 ∨ p = 31 := by
    rw [show 93 = 3 * 31 from rfl, hp.dvd_mul] at hdvd
    simpa only [Nat.prime_dvd_prime_iff_eq hp Nat.prime_three,
      Nat.prime_dvd_prime_iff_eq hp (by norm_num : Nat.Prime 31)] using hdvd
  rcases hprime with rfl | rfl
  · exact absurd hper (by decide +kernel)
  · exact absurd hper (by decide +kernel)

/-- Settles O39: the bits of a clock; that it loses nothing; and the two periods, by the recurrence of the low bits and the
prime quotients of each period. -/
theorem lfsrClockShiftsWithFeedback : Obligations.LfsrClockShiftsWithFeedback := by
  refine ⟨fun r => ⟨r.clock_mode, fun i hi => clock_bit_of_lt r hi, clock_bit_top r, clock_shift_zero⟩,
    fun _ _ h => clock_injective h, fun n => ?_, fun n => ?_⟩
  · rw [← Nat.dvd_iff_mod_eq_zero]
    exact isPeriodicPt_seeded_long n
  · rw [← Nat.dvd_iff_mod_eq_zero]
    exact isPeriodicPt_seeded_short n

end Sys2Proof.Proofs.Primitives

/-! PROOFS. The output of a pulse channel (41_pulse.md, R90). -/

namespace Sys2Proof.Proofs.Pulse

open Sys2Proof Sys2Proof.Machine

/-- A length counter is exhausted exactly at count 0 (R69). -/
theorem exhausted_iff (lc : LengthCounter) : lc.exhausted = true ↔ lc.div.count = 0 := beq_iff_eq

/-- With its index in range, a sequencer's value is the table's entry there, not the default (R78). -/
theorem table_index {α : Type} [Inhabited α] {n : Nat} {q : Sequencer} (hq : q.index < n) (table : Vector α n) :
    table[q.index]? = some (q.value table) := by
  simp only [Sequencer.value, Vector.getElem?_eq_getElem hq, Option.getD_some]

/-- Settles O42: the nested guards of the output are one disjunction, and with the index in range the value that gates it is the
duty bit of the table. -/
theorem pulseOutputIsTheGatedEnvelope : Obligations.PulseOutputIsTheGatedEnvelope := by
  intro p hseq
  have hduty : (dutyRow p.duty)[p.seq.index]? = some false ↔ p.seq.value (dutyRow p.duty) = false := by
    rw [table_index hseq, Option.some_inj]
  simp only [hduty, Pulse.get, Envelope.out, exhausted_iff, Bool.not_eq_true', ite_or, periodMin_val, periodMax_val]

end Sys2Proof.Proofs.Pulse

/-! PROOFS. The output of the noise channel (43_noise.md, R105). -/

namespace Sys2Proof.Proofs.Noise

open Sys2Proof Sys2Proof.Machine
open Sys2Proof.Proofs.Pulse (exhausted_iff)

/-- The gate is closed exactly while bit 0 of the shift register is set, the inverted polarity of R77. -/
theorem gate_eq_false_iff (r : Lfsr) : r.gate = false ↔ r.shift.getLsbD 0 = true := by
  rw [Lfsr.gate, beq_eq_false_iff_ne, Bool.ne_false_iff]

/-- Settles O44: the three nested guards of the output are one disjunction, each in the words of R105. -/
theorem noiseOutputIsGatedByAClearBit : Obligations.NoiseOutputIsGatedByAClearBit := by
  intro n
  calc n.get
      = if n.enabled = false ∨ n.len.exhausted = true ∨ n.lfsr.gate = false then 0#4 else n.env.out := by
        simp only [Noise.get, Bool.not_eq_true', ite_or]
    _ = if n.enabled = false ∨ n.len.div.count = 0 ∨ n.lfsr.shift.getLsbD 0 = true then 0#4
        else if n.env.constant then n.env.volume else n.env.decay := by
        simp only [exhausted_iff, gate_eq_false_iff, Envelope.out]

end Sys2Proof.Proofs.Noise

/-! PROOFS. The hold of the consumer at the ring buffer (45_ring_buffer.md section 2, R126). -/

namespace Sys2Proof.Proofs.RingBuffer

open Sys2Proof Sys2Proof.Machine

/-- Settles O33: POP is `popChunk` at the configured chunk size, which holds below one chunk whatever that size is. -/
theorem popHoldsBelowOneChunk : Obligations.PopHoldsBelowOneChunk := by
  intro s hshort
  have hholds : popChunk Config.chunkSamples s = s := popChunk_of_short Config.chunkSamples s hshort
  rw [exec_pop, hholds]

end Sys2Proof.Proofs.RingBuffer

/-! PROOFS. The construction check (60_exceptions.md section 1, R133). -/

namespace Sys2Proof.Proofs.Construction

open Sys2Proof Sys2Proof.Machine

/-- The model's check asks for room for two bytes and for twice the chunk in the capacity; R133 asks for an even capacity that is
not zero and a chunk within half of it. -/
theorem paramsLegal_iff (p : Config.Params) :
    paramsLegal p = true ↔
      p.fifoCapacity % 2 = 0 ∧ p.fifoCapacity ≠ 0 ∧ 1 ≤ p.chunkSamples ∧ p.chunkSamples ≤ p.fifoCapacity / 2 ∧
        p.chipClockHz ≠ 0 ∧ p.sampleRate ≠ 0 := by
  have hhalf : 2 * p.chunkSamples ≤ p.fifoCapacity ↔ p.chunkSamples ≤ p.fifoCapacity / 2 := by omega
  have hroom : p.fifoCapacity % 2 = 0 → (2 ≤ p.fifoCapacity ↔ p.fifoCapacity ≠ 0) := by omega
  simp only [paramsLegal, Bool.and_eq_true, beq_iff_eq, decide_eq_true_eq, and_assoc, hhalf]
  exact and_congr_right fun heven => and_congr_left' (hroom heven)

/-- Legal parameters are accepted as they are. -/
theorem constructParams_of_legal {p : Config.Params} (h : paramsLegal p = true) : constructParams p = some p := if_pos h

/-- Parameters that are not legal yield no machine (R133). -/
theorem constructParams_of_not_legal {p : Config.Params} (h : ¬ paramsLegal p = true) : constructParams p = none := if_neg h

/-- Construction accepts its parameters exactly when they are legal. -/
theorem constructParams_eq_some_iff (p : Config.Params) : constructParams p = some p ↔ paramsLegal p = true := by
  refine ⟨fun hsome => ?_, constructParams_of_legal⟩
  by_contra hbad
  rw [constructParams_of_not_legal hbad] at hsome
  cases hsome

/-- A number from 2 on is no pulse id (R133). -/
theorem pulseIdOf_of_two_le : ∀ k, 2 ≤ k → pulseIdOf k = none
  | 0, h | 1, h => absurd h (by decide)
  | _ + 2, _ => rfl

/-- Settles O59: what construction accepts is what the check finds legal, which is R133's list; the two pulse ids are the two
equations of `pulseIdOf` that answer one. -/
theorem constructionRefusesIllegalParameters : Obligations.ConstructionRefusesIllegalParameters := by
  refine ⟨fun p => (constructParams_eq_some_iff p).trans (paramsLegal_iff p), fun p => ?_, rfl, rfl, pulseIdOf_of_two_le⟩
  by_cases hlegal : paramsLegal p = true
  · exact .inl (constructParams_of_legal hlegal)
  · exact .inr (constructParams_of_not_legal hlegal)

end Sys2Proof.Proofs.Construction

/-! PROOFS. The encoder and the decoder are inverse to each other, and the words that spell no command (30_encoding.md sections 1 to
5; R50 to R55, R59, R60). -/

namespace Sys2Proof.Proofs.Encoding

open Sys2Proof Sys2Proof.Machine

/-! ### The six formats of an instruction -/

/-- A case for each format: the 32 WRITE commands are one case, over the address. -/
theorem instr_formats {motive : Instr → Prop} (write : ∀ a d, motive (writeAt a d))
    (writeFlag : ∀ a b v, motive (.writeFlag a b v)) (read : ∀ a, motive (.read a)) (tick : motive .tick)
    (pop : motive .pop) (setGain : ∀ g, motive (.setGain g)) (i : Instr) : motive i := by
  cases i with
  | w4000 d => exact write 0x00#5 d
  | w4001 d => exact write 0x01#5 d
  | w4002 d => exact write 0x02#5 d
  | w4003 d => exact write 0x03#5 d
  | w4004 d => exact write 0x04#5 d
  | w4005 d => exact write 0x05#5 d
  | w4006 d => exact write 0x06#5 d
  | w4007 d => exact write 0x07#5 d
  | w4008 d => exact write 0x08#5 d
  | w4009 d => exact write 0x09#5 d
  | w400A d => exact write 0x0A#5 d
  | w400B d => exact write 0x0B#5 d
  | w400C d => exact write 0x0C#5 d
  | w400D d => exact write 0x0D#5 d
  | w400E d => exact write 0x0E#5 d
  | w400F d => exact write 0x0F#5 d
  | w4010 d => exact write 0x10#5 d
  | w4011 d => exact write 0x11#5 d
  | w4012 d => exact write 0x12#5 d
  | w4013 d => exact write 0x13#5 d
  | w4014 d => exact write 0x14#5 d
  | w4015 d => exact write 0x15#5 d
  | w4016 d => exact write 0x16#5 d
  | w4017 d => exact write 0x17#5 d
  | w4018 d => exact write 0x18#5 d
  | w4019 d => exact write 0x19#5 d
  | w401A d => exact write 0x1A#5 d
  | w401B d => exact write 0x1B#5 d
  | w401C d => exact write 0x1C#5 d
  | w401D d => exact write 0x1D#5 d
  | w401E d => exact write 0x1E#5 d
  | w401F d => exact write 0x1F#5 d
  | writeFlag a b v => exact writeFlag a b v
  | read a => exact read a
  | tick => exact tick
  | pop => exact pop
  | setGain g => exact setGain g

/-- The encoding of the WRITE to an address is the format W word of that address (R51, R60). -/
@[simp] theorem encode_writeAt (a : RegIndex) (d : Byte) : encode (writeAt a d) = ⟨writeWord a d, 0#64⟩ := by
  induction a using regIndex_cases with
  | h n => fin_cases n <;> rfl

/-- An instruction whose word has another OP than 00 is no WRITE. -/
theorem writeAt_ne_of_op {i : Instr} (hop : opField (encode i).word ≠ 0#2) (a : RegIndex) (d : Byte) :
    writeAt a d ≠ i := by
  rintro rfl
  rw [encode_writeAt] at hop
  exact hop (opField_writeWord a d)

/-! ### Decoding an encoded word -/

/-- What a format W word decodes to, whatever stands beside it (R51). -/
theorem decode_writeWord (a : RegIndex) (d : Byte) (g : F64) : decode ⟨writeWord a d, g⟩ = .ok (writeAt a d) := by
  simp [decode]

/-- What a format WF word decodes to (R52). -/
theorem decode_flagWord (a : RegIndex) (b : BitVec 3) (v : Bool) (g : F64) :
    decode ⟨flagWord a b v, g⟩ = .ok (.writeFlag a b v) := by
  simp [decode]

/-- What a format R word decodes to (R53). -/
theorem decode_readWord (a : RegIndex) (g : F64) : decode ⟨readWord a, g⟩ = .ok (.read a) := by
  simp [decode]

/-- What a format E word decodes to, by its event number (R54). -/
theorem decode_eventWord (e : BitVec 6) (g : F64) : decode ⟨eventWord e, g⟩ =
    if e = 0x00#6 then .ok .tick else if e = 0x01#6 then .ok .pop else if e = 0x02#6 then .ok (.setGain g)
    else .error .reservedEvent := by
  simp [decode]

/-- Settles O1, by the format of the instruction: each format's word has the fields it was built from. -/
theorem decodeOfEncodeIsTheInstruction : Obligations.DecodeOfEncodeIsTheInstruction := by
  intro i
  induction i using instr_formats with
  | write a d => rw [encode_writeAt]; exact decode_writeWord a d 0#64
  | writeFlag a b v => exact decode_flagWord a b v 0#64
  | read a => exact decode_readWord a 0#64
  | tick => exact decode_eventWord 0x00#6 0#64
  | pop => exact decode_eventWord 0x01#6 0#64
  | setGain g => exact decode_eventWord 0x02#6 g

/-! ### The fields of a word as numbers -/

theorem opField_toNat (w : CmdWord) : (opField w).toNat = w.toNat / 2 ^ 14 := by
  have h := w.isLt
  simp only [opField, BitVec.extractLsb'_toNat, Nat.shiftRight_eq_div_pow]
  omega

theorem addrField_toNat (w : CmdWord) : (addrField w).toNat = w.toNat / 2 ^ 8 % 2 ^ 5 := by
  simp only [addrField, BitVec.extractLsb'_toNat, Nat.shiftRight_eq_div_pow]

theorem dataField_toNat (w : CmdWord) : (dataField w).toNat = w.toNat % 2 ^ 8 := by
  simp only [dataField, BitVec.extractLsb'_toNat, Nat.shiftRight_zero]

theorem flagReserved_toNat (w : CmdWord) : (flagReserved w).toNat = w.toNat / 2 ^ 4 % 2 ^ 4 := by
  simp only [flagReserved, BitVec.extractLsb'_toNat, Nat.shiftRight_eq_div_pow]

theorem bitField_toNat (w : CmdWord) : (bitField w).toNat = w.toNat % 2 ^ 3 := by
  simp only [bitField, BitVec.extractLsb'_toNat, Nat.shiftRight_zero]

theorem eventField_toNat (w : CmdWord) : (eventField w).toNat = w.toNat / 2 ^ 8 % 2 ^ 6 := by
  simp only [eventField, BitVec.extractLsb'_toNat, Nat.shiftRight_eq_div_pow]

/-- A bit of a word as a number. -/
theorem getLsbD_toNat (w : CmdWord) (i : Nat) : (w.getLsbD i).toNat = w.toNat / 2 ^ i % 2 := by
  rw [BitVec.getLsbD, Nat.toNat_testBit]

/-- Bits above the low `n` bits, which hold `y`, add up with them: the value of a concatenation. -/
theorem append_toNat {m n : Nat} (x : BitVec m) (y : BitVec n) : (x ++ y).toNat = x.toNat * 2 ^ n + y.toNat := by
  rw [BitVec.toNat_append, Nat.shiftLeft_eq, Nat.mul_comm, ← Nat.two_pow_add_eq_or_of_lt y.isLt]

theorem writeWord_toNat (a : RegIndex) (d : Byte) : (writeWord a d).toNat = a.toNat * 2 ^ 8 + d.toNat := by
  simp only [writeWord, append_toNat, BitVec.toNat_ofNat]
  omega

theorem flagWord_toNat (a : RegIndex) (b : BitVec 3) (v : Bool) :
    (flagWord a b v).toNat = 2 ^ 14 + a.toNat * 2 ^ 8 + v.toNat * 2 ^ 3 + b.toNat := by
  simp only [flagWord, append_toNat, BitVec.toNat_ofBool, BitVec.toNat_ofNat]
  omega

theorem readWord_toNat (a : RegIndex) : (readWord a).toNat = 2 ^ 15 + a.toNat * 2 ^ 8 := by
  simp only [readWord, append_toNat, BitVec.toNat_ofNat]
  omega

theorem eventWord_toNat (e : BitVec 6) : (eventWord e).toNat = 3 * 2 ^ 14 + e.toNat * 2 ^ 8 := by
  simp only [eventWord, append_toNat, BitVec.toNat_ofNat]
  omega

/-! ### A word is rebuilt from its fields -/

/-- A word with OP 00 and a clear bit 13 is the format W word of its fields (R51). -/
theorem eq_writeWord {w : CmdWord} (hop : opField w = 0#2) (hhigh : indexHighBit w = false) :
    w = writeWord (addrField w) (dataField w) := by
  apply BitVec.eq_of_toNat_eq
  have eop := congrArg BitVec.toNat hop
  have ehigh := congrArg Bool.toNat hhigh
  rw [opField_toNat] at eop
  rw [indexHighBit, getLsbD_toNat] at ehigh
  rw [writeWord_toNat, addrField_toNat, dataField_toNat]
  simp at eop ehigh
  omega

/-- A word with OP 01, a clear bit 13 and clear bits 7 to 4 is the format WF word of its fields (R52). -/
theorem eq_flagWord {w : CmdWord} (hop : opField w = 1#2) (hhigh : indexHighBit w = false)
    (hres : flagReserved w = 0#4) : w = flagWord (addrField w) (bitField w) (valField w) := by
  apply BitVec.eq_of_toNat_eq
  have eop := congrArg BitVec.toNat hop
  have ehigh := congrArg Bool.toNat hhigh
  have eres := congrArg BitVec.toNat hres
  rw [opField_toNat] at eop
  rw [indexHighBit, getLsbD_toNat] at ehigh
  rw [flagReserved_toNat] at eres
  rw [flagWord_toNat, addrField_toNat, bitField_toNat, valField, getLsbD_toNat]
  simp at eop ehigh eres
  omega

/-- A word with OP 10, a clear bit 13 and a clear low byte is the format R word of its address (R53). -/
theorem eq_readWord {w : CmdWord} (hop : opField w = 2#2) (hhigh : indexHighBit w = false)
    (hlow : dataField w = 0#8) : w = readWord (addrField w) := by
  apply BitVec.eq_of_toNat_eq
  have eop := congrArg BitVec.toNat hop
  have ehigh := congrArg Bool.toNat hhigh
  have elow := congrArg BitVec.toNat hlow
  rw [opField_toNat] at eop
  rw [indexHighBit, getLsbD_toNat] at ehigh
  rw [dataField_toNat] at elow
  rw [readWord_toNat, addrField_toNat]
  simp at eop ehigh elow
  omega

/-- The four values of OP. -/
theorem opField_cases (w : CmdWord) : opField w = 0#2 ∨ opField w = 1#2 ∨ opField w = 2#2 ∨ opField w = 3#2 := by
  generalize opField w = op
  revert op
  decide

/-- A word with OP 11 and a clear low byte is the format E word of its event number (R54). -/
theorem eq_eventWord {w : CmdWord} (hop : opField w = 3#2) (hlow : dataField w = 0#8) :
    w = eventWord (eventField w) := by
  apply BitVec.eq_of_toNat_eq
  have eop := congrArg BitVec.toNat hop
  have elow := congrArg BitVec.toNat hlow
  rw [opField_toNat] at eop
  rw [dataField_toNat] at elow
  rw [eventWord_toNat, eventField_toNat]
  simp at eop elow
  omega

/-! ### What the decoder can answer -/

/-- A word that spells a command is a word of one of the four formats, and what it decodes to is that format's instruction
(R50 to R54). -/
theorem decode_wellFormed {c : Command} (h : c.word.wellFormed = true) :
    (∃ a d, c.word = writeWord a d ∧ decode c = .ok (writeAt a d)) ∨
      (∃ a b v, c.word = flagWord a b v ∧ decode c = .ok (.writeFlag a b v)) ∨
      (∃ a, c.word = readWord a ∧ decode c = .ok (.read a)) ∨
      (c.word = eventWord 0x00#6 ∧ decode c = .ok .tick) ∨ (c.word = eventWord 0x01#6 ∧ decode c = .ok .pop) ∨
      (c.word = eventWord 0x02#6 ∧ decode c = .ok (.setGain c.operand)) := by
  obtain ⟨w, g⟩ := c
  obtain ⟨hhigh, hflag, hread, hevent, hknown⟩ := (wellFormed_iff w).1 h
  rcases opField_cases w with hop | hop | hop | hop <;> simp only [hop] at hhigh hflag hread hevent hknown
  · have e := eq_writeWord hop (by simpa using hhigh)
    exact .inl ⟨_, _, e, by rw [e]; simp [decode_writeWord]⟩
  · have e := eq_flagWord hop (by simpa using hhigh) (by simpa using hflag)
    exact .inr (.inl ⟨_, _, _, e, by rw [e]; simp [decode_flagWord]⟩)
  · have e := eq_readWord hop (by simpa using hhigh) (by simpa using hread)
    exact .inr (.inr (.inl ⟨_, e, by rw [e]; simp [decode_readWord]⟩))
  · have e := eq_eventWord hop (by simpa using hevent)
    have hnum : (eventField w).toNat ≤ 2 := by simpa using hknown
    have hcases : eventField w = 0x00#6 ∨ eventField w = 0x01#6 ∨ eventField w = 0x02#6 := by bv_omega
    refine .inr (.inr (.inr ?_))
    rcases hcases with he | he | he <;> rw [he] at e <;> subst e
    · exact .inl ⟨rfl, decode_eventWord _ g⟩
    · exact .inr (.inl ⟨rfl, decode_eventWord _ g⟩)
    · exact .inr (.inr ⟨rfl, decode_eventWord _ g⟩)

/-- A word that fails a check of R59 is rejected. -/
theorem decode_not_wellFormed {c : Command} (h : ¬ c.word.wellFormed = true) : ∃ e, decode c = .error e := by
  cases hd : decode c with
  | error e => exact ⟨e, rfl⟩
  | ok i =>
    refine absurd ((wellFormed_iff c.word).2 ?_) h
    have hop := opField_cases c.word
    simp only [decode] at hd
    split_ifs at hd <;> simp_all

/-- The decoder rejects exactly the words that R59 says spell no command. -/
theorem decode_error_iff (c : Command) : (∃ e, decode c = .error e) ↔ ¬ c.word.wellFormed = true := by
  refine ⟨?_, decode_not_wellFormed⟩
  rintro ⟨e, he⟩ hw
  rcases decode_wellFormed hw with
    ⟨_, _, -, hd⟩ | ⟨_, _, _, -, hd⟩ | ⟨_, -, hd⟩ | ⟨-, hd⟩ | ⟨-, hd⟩ | ⟨-, hd⟩ <;>
  · rw [hd] at he
    cases he

/-- Settles O2: a word that decodes is well formed, so it is a word of one of the formats, and the instruction it decodes to
encodes to that format's word again. -/
theorem encodeOfDecodeIsTheWord : Obligations.EncodeOfDecodeIsTheWord := by
  intro c i hi
  have hw : c.word.wellFormed = true := by
    by_contra hbad
    obtain ⟨e, he⟩ := decode_not_wellFormed hbad
    rw [he] at hi
    cases hi
  rcases decode_wellFormed hw with
    ⟨a, d, e, hd⟩ | ⟨a, b, v, e, hd⟩ | ⟨a, e, hd⟩ | ⟨e, hd⟩ | ⟨e, hd⟩ | ⟨e, hd⟩ <;>
  (rw [hd] at hi; cases hi; rw [e])
  · exact ⟨by rw [encode_writeAt], fun g hg => absurd hg (writeAt_ne_of_op (by simp [encode]) a d)⟩
  · exact ⟨rfl, fun g hg => by cases hg⟩
  · exact ⟨rfl, fun g hg => by cases hg⟩
  · exact ⟨rfl, fun g hg => by cases hg⟩
  · exact ⟨rfl, fun g hg => by cases hg⟩
  · exact ⟨rfl, fun g hg => by cases hg; rfl⟩

/-- Settles O3: what is rejected is what fails a check of R59, and each check is a statement about the number that the word is. -/
theorem refusedWordsAreTheFiveCases : Obligations.RefusedWordsAreTheFiveCases := by
  intro c
  have hop : ∀ n : BitVec 2, opField c.word = n ↔ c.word.toNat / 2 ^ 14 = n.toNat := fun n => by
    rw [← opField_toNat, BitVec.toNat_inj]
  have hlow : dataField c.word = 0#8 ↔ c.word.toNat % 256 = 0 := by
    rw [← BitVec.toNat_inj, dataField_toNat]; rfl
  have hres : flagReserved c.word = 0#4 ↔ c.word.toNat / 16 % 16 = 0 := by
    rw [← BitVec.toNat_inj, flagReserved_toNat]; rfl
  have hevent : (eventField c.word).toNat = c.word.toNat / 256 % 64 := eventField_toNat c.word
  simp only [decode_error_iff, wellFormed_iff, ne_eq, hop, hlow, hres, hevent, indexHighBit, BitVec.toNat_ofNat]
  cases c.word.getLsbD 13 <;> simp <;> omega

/-- Settles O4: each word is decoded. -/
theorem publishedWordsDecode : Obligations.PublishedWordsDecode := by
  refine ⟨?_, ?_, ?_, ?_, ?_, ?_, ?_, ?_, ?_, ?_, ?_, ?_, ?_, ?_⟩ <;> decide

end Sys2Proof.Proofs.Encoding

/-! PROOFS. The register writes, WRITEFLAG, READ and SETGAIN, one address and one command at a time (41_pulse.md, 42_triangle.md and
43_noise.md section 1, 44_chip_core.md section 1; R83 to R86, R91 to R94, R99 to R101, R106 to R113). -/

namespace Sys2Proof.Proofs.Writes

open Sys2Proof Sys2Proof.Machine

/-! ### The fields of a register byte as numbers -/

theorem fVol_toNat (d : Byte) : (fVol d).toNat = d.toNat % 16 := by
  simp only [fVol, BitVec.extractLsb'_toNat, Nat.shiftRight_zero]

theorem fSweepPeriod_toNat (d : Byte) : (fSweepPeriod d).toNat = d.toNat / 16 % 8 := by
  simp only [fSweepPeriod, BitVec.extractLsb'_toNat, Nat.shiftRight_eq_div_pow]

theorem fLinReload_toNat (d : Byte) : (fLinReload d).toNat = d.toNat % 128 := by
  simp only [fLinReload, BitVec.extractLsb'_toNat, Nat.shiftRight_zero]

/-! ### The raw period that the two stored bytes assemble, after a write of one of them (R56) -/

theorem pulsePeriod_setReg_low (s : State) (k : PulseId) (d : Byte) :
    (s.setReg (pulseLoIdx k) d).pulsePeriod k = assemblePeriod (s.getReg (pulseHiIdx k)) d := by
  have hne : pulseHiIdx k ≠ pulseLoIdx k := by cases k <;> decide
  rw [State.pulsePeriod, State.getReg_setReg_same, State.getReg_setReg_other _ _ _ _ hne]

theorem pulsePeriod_setReg_high (s : State) (k : PulseId) (d : Byte) :
    (s.setReg (pulseHiIdx k) d).pulsePeriod k = assemblePeriod d (s.getReg (pulseLoIdx k)) := by
  have hne : pulseLoIdx k ≠ pulseHiIdx k := by cases k <;> decide
  rw [State.pulsePeriod, State.getReg_setReg_same, State.getReg_setReg_other _ _ _ _ hne]

theorem triPeriod_setReg_low (s : State) (d : Byte) :
    (s.setReg 0x0A#5 d).triPeriod = assemblePeriod (s.getReg 0x0B#5) d := by
  rw [State.triPeriod, State.getReg_setReg_same, State.getReg_setReg_other _ _ _ _ (by decide)]

theorem triPeriod_setReg_high (s : State) (d : Byte) :
    (s.setReg 0x0B#5 d).triPeriod = assemblePeriod d (s.getReg 0x0A#5) := by
  rw [State.triPeriod, State.getReg_setReg_same, State.getReg_setReg_other _ _ _ _ (by decide)]

/-! ### The whole next state of each WRITE -/

/-- Settles O10: the envelope's period is the number of the volume field. -/
theorem pulseControlWriteResult : Obligations.PulseControlWriteResult := by
  intro d s
  rw [← fVol_toNat]
  exact ⟨rfl, rfl⟩

/-- Settles O11: the sweep divider's period is the number of bits 6 to 4. -/
theorem pulseSweepWriteResult : Obligations.PulseSweepWriteResult := by
  intro d s
  rw [← fSweepPeriod_toNat]
  exact ⟨rfl, rfl⟩

/-- Settles O12: the period is assembled after the low byte is stored, so from the new low byte and the stored high bits. -/
theorem pulsePeriodLowWriteResult : Obligations.PulsePeriodLowWriteResult := by
  intro d s
  simp only [exec_w4002, exec_w4006, writePulseLow, pulsePeriod_setReg_low, assemblePeriod_eq]
  exact ⟨rfl, rfl⟩

/-- Settles O13: the same assembly after the high byte is stored, and the length load. -/
theorem pulsePeriodHighWriteResult : Obligations.PulsePeriodHighWriteResult := by
  intro d s
  simp only [exec_w4003, exec_w4007, writePulseHigh, pulsePeriod_setReg_high, assemblePeriod_eq]
  exact ⟨rfl, rfl⟩

/-- Settles O14: the direct load takes the number of the reload field. -/
theorem triangleControlWriteResult : Obligations.TriangleControlWriteResult := by
  intro d s
  rw [← fLinReload_toNat]
  rfl

/-- Settles O15: the triangle's assembly after its low byte is stored. -/
theorem trianglePeriodLowWriteResult : Obligations.TrianglePeriodLowWriteResult := by
  intro d s
  simp only [exec_w400A, writeTriLow, triPeriod_setReg_low, assemblePeriod_eq]
  rfl

/-- Settles O16: the triangle's assembly after its high byte is stored; the linear counter reloads from $4008, which this write does
not change. -/
theorem trianglePeriodHighWriteResult : Obligations.TrianglePeriodHighWriteResult := by
  intro d s
  have hlin : (s.setReg 0x0B#5 d).getReg 0x08#5 = s.getReg 0x08#5 := State.getReg_setReg_other _ _ _ _ (by decide)
  simp only [exec_w400B, writeTriHigh, triPeriod_setReg_high, hlin, assemblePeriod_eq, ← fLinReload_toNat]
  rfl

/-- Settles O17: the envelope's period is the number of the volume field. -/
theorem noiseControlWriteResult : Obligations.NoiseControlWriteResult := by
  intro d s
  rw [← fVol_toNat]
  rfl

/-- Settles O18: the action of $400E is the stated update itself. -/
theorem noisePeriodWriteResult : Obligations.NoisePeriodWriteResult := fun _ _ => rfl

/-- Settles O19: the action of $400F is the stated update itself. -/
theorem noiseLengthWriteResult : Obligations.NoiseLengthWriteResult := fun _ _ => rfl

/-- Settles O20: the action of $4015 is the stated update itself. -/
theorem channelEnableWriteResult : Obligations.ChannelEnableWriteResult := fun _ _ => rfl

/-- Settles O21: each of these writes is `setReg` at its own index. -/
theorem storeOnlyWriteResult : Obligations.StoreOnlyWriteResult := fun _ _ =>
  ⟨rfl, rfl, rfl, rfl, rfl, rfl, rfl, rfl, rfl, rfl, rfl, rfl, rfl, rfl, rfl, rfl, rfl⟩

/-! ### Every WRITE and WRITEFLAG -/

/-- The stored bytes after a WRITE: its own, and every other one as before. -/
theorem exec_writeAt_getReg {a : RegIndex} {d : Byte} {s t : State} (h : exec (writeAt a d) s = .next t) (b : RegIndex) :
    t.getReg b = if b = a then d else s.getReg b := by
  rw [← writeDispatch_eq_exec] at h
  obtain ⟨t', h', hreg⟩ := writeDispatch_reg a d s
  obtain rfl : t' = t := Host.Outcome.next.inj (h'.symm.trans h)
  rw [State.getReg_congr hreg, State.getReg_setReg]

/-- What no WRITE touches, for the command of an address. -/
theorem exec_writeAt_frame {a : RegIndex} {d : Byte} {s t : State} (h : exec (writeAt a d) s = .next t) :
    t.fc = s.fc ∧ t.acc = s.acc ∧ t.gain = s.gain ∧ t.fifo = s.fifo ∧ t.marks = s.marks ∧ t.stream = s.stream ∧
      t.reads = s.reads ∧ t.chunks = s.chunks :=
  writeDispatch_frame a d s t (by rw [writeDispatch_eq_exec, h])

/-- WRITEFLAG is the WRITE of its address with the changed byte (R111). -/
theorem exec_writeFlag_eq (a : RegIndex) (b : BitVec 3) (v : Bool) (s : State) :
    exec (.writeFlag a b v) s = exec (writeAt a (flagByte (s.getReg a) b v)) s := by
  rw [exec_writeFlag, writeDispatch_eq_exec]

/-- Settles O22, by the two facts about every WRITE: what it stores and what it leaves alone. -/
theorem everyWriteStoresItsByteOnly : Obligations.EveryWriteStoresItsByteOnly := by
  intro a d s
  obtain ⟨t, h⟩ := exec_completes (writeAt a d) s
  have hget := exec_writeAt_getReg h
  exact ⟨t, h, by rw [hget, if_pos rfl], fun b hb => by rw [hget, if_neg hb], exec_writeAt_frame h⟩

/-- Settles O23: the byte written is the stored one with the named bit replaced. -/
theorem writeFlagIsAWriteOfOneChangedBit : Obligations.WriteFlagIsAWriteOfOneChangedBit := by
  intro a b v s
  obtain ⟨t, h⟩ := exec_completes (writeAt a (flagByte (s.getReg a) b v)) s
  refine ⟨t, flagByte (s.getReg a) b v, by rw [exec_writeFlag_eq, h], h, ?_, fun j hj => flagByte_bit _ b v j hj⟩
  rw [exec_writeAt_getReg h, if_pos rfl]

/-- A low bit of the byte that WRITEFLAG writes, the bit named as a field value. -/
theorem flagByte_bit_ofNat (d : Byte) (b : BitVec 3) (v : Bool) (j : Nat) (hj : j < 8) :
    (flagByte d b v).getLsbD j = if b = BitVec.ofNat 3 j then v else d.getLsbD j := by
  have hb : b = BitVec.ofNat 3 j ↔ j = b.toNat := by
    rw [← BitVec.toNat_inj, BitVec.toNat_ofNat, Nat.mod_eq_of_lt hj, eq_comm]
  simp only [flagByte_bit d b v j hj, hb]

/-- Settles O24: the WRITE behind this WRITEFLAG is the one of $4015, whose four flags are bits 0 to 3 of the changed byte. -/
theorem enableFlagWriteRestoresMutedChannels : Obligations.EnableFlagWriteRestoresMutedChannels := by
  intro b v s
  have hbit := flagByte_bit_ofNat (s.getReg 0x15#5) b v
  exact ⟨writeEnables (flagByte (s.getReg 0x15#5) b v) s, rfl, hbit 0 (by decide), hbit 1 (by decide),
    hbit 2 (by decide), hbit 3 (by decide)⟩

/-- An envelope that was just loaded has decay 15 after its next clock (R70, R71). -/
theorem decay_clock_load (e : Envelope) (v : BitVec 4) (c l : Bool) : (e.load v c l).clock.decay = 15#4 := by
  rw [Envelope.clock_started _ rfl]

/-- Settles O25: the WRITE behind each of these is a control write, which loads the channel's envelope. -/
theorem controlFlagWriteRestartsEnvelope : Obligations.ControlFlagWriteRestartsEnvelope := fun _ _ _ =>
  ⟨⟨_, rfl, decay_clock_load _ _ _ _⟩, ⟨_, rfl, decay_clock_load _ _ _ _⟩, ⟨_, rfl, decay_clock_load _ _ _ _⟩⟩

/-! ### READ and SETGAIN -/

/-- Settles O26: the byte READ appends is the one stored at the index. -/
theorem readReturnsTheStoredByte : Obligations.ReadReturnsTheStoredByte := fun a s => exec_read a s

/-- A NaN and an infinity are together the values with an exponent field of all ones (R113). -/
theorem nan_or_inf_eq (g : F64) : (f64IsNaN g || f64IsInf g) = (f64Exp g == 2047) := by
  cases he : f64Exp g == 2047 <;> simp [f64IsNaN, f64IsInf, he, bne]

theorem f64IsFinite_iff (g : F64) : f64IsFinite g = true ↔ f64Exp g ≠ 2047 := by
  rw [f64IsFinite, ← Bool.not_or, nan_or_inf_eq, Bool.not_eq_true', beq_eq_false_iff_ne]

/-- SETGAIN of a finite operand (R113). -/
theorem exec_setGain_finite {g : F64} (h : f64IsFinite g = true) (s : State) :
    exec (.setGain g) s = .next { s with gain := g } := by
  rw [exec_setGain, nan_or_inf_eq, if_neg (by simpa using (f64IsFinite_iff g).1 h)]

/-- SETGAIN of a NaN or an infinity is refused with code 2 (R113, R131). -/
theorem exec_setGain_refused {g : F64} (h : f64IsFinite g = false) (s : State) :
    exec (.setGain g) s = .next (s.refuse (.nonFiniteGain g)) := by
  have hexp : f64Exp g = 2047 := by
    by_contra hne
    rw [(f64IsFinite_iff g).2 hne] at h
    cases h
  rw [exec_setGain, nan_or_inf_eq, if_pos (by simpa using hexp)]

/-- Settles O27: finite is an exponent field other than all ones. -/
theorem setGainSetsOrRefuses : Obligations.SetGainSetsOrRefuses := by
  intro g s
  have hexp : g.extractLsb' 52 11 = 0x7FF#11 ↔ f64Exp g = 2047 := by
    rw [← BitVec.toNat_inj]
    rfl
  refine ⟨fun hfin => ?_, fun hinf => ?_⟩
  · exact exec_setGain_finite ((f64IsFinite_iff g).2 (hexp.not.1 hfin)) s
  · refine exec_setGain_refused ?_ s
    rw [← Bool.not_eq_true, f64IsFinite_iff, not_not]
    exact hexp.1 hinf

end Sys2Proof.Proofs.Writes

/-! PROOFS. What each command changes of the shared state, and the steps of the machine: the command taken, refusals, faults and
marks (10_state.md sections 2 and 6 to 9, 60_exceptions.md section 1; R131, R134). -/

namespace Sys2Proof.Proofs.Steps

open Sys2Proof Sys2Proof.Machine
open Sys2Proof.Proofs.Encoding (instr_formats)
open Sys2Proof.Proofs.Writes (exec_writeAt_frame exec_writeFlag_eq exec_setGain_finite exec_setGain_refused)

/-! ### TICK and POP, said once -/

/-- A TICK either holds or runs its body (R119, R120). -/
theorem exec_tick_cases {s t : State} (h : exec .tick s = .next t) :
    (s.tickHolds = true ∧ t = s) ∨ (s.tickHolds = false ∧ t = s.tickBody) := by
  rw [exec_tick] at h
  cases hholds : s.tickHolds with
  | true =>
    rw [hholds, if_pos rfl] at h
    exact .inl ⟨rfl, (Host.Outcome.next.inj h).symm⟩
  | false =>
    rw [hholds, if_neg Bool.false_ne_true] at h
    exact .inr ⟨rfl, (Host.Outcome.next.inj h).symm⟩

/-- A TICK whose sample is not due, or finds 2 free bytes, runs its body. -/
theorem exec_tick_of_room {s : State} (h : s.acc + 96000 < 1789773 ∨ s.fifo.fill ≤ 192000 - 2) :
    exec .tick s = .next s.tickBody := by
  rw [exec_tick, State.tickHolds_false h, if_neg Bool.false_ne_true]

/-- A TICK that does not hold has no sample due, or finds 2 free bytes (R120). -/
theorem room_of_runs {s : State} (h : s.tickHolds = false) : s.acc + 96000 < 1789773 ∨ s.fifo.fill ≤ 192000 - 2 := by
  by_contra hno
  rw [s.tickHolds_iff.2 (by omega)] at h
  cases h

/-- A POP either holds or removes one chunk (R125, R126). -/
theorem exec_pop_cases {s t : State} (h : exec .pop s = .next t) :
    (s.fifo.fill < 2 * Config.chunkSamples ∧ t = s) ∨
      (2 * Config.chunkSamples ≤ s.fifo.fill ∧
        t = { s with
          fifo := s.fifo.drop Config.chunkSamples
          chunks := s.chunks ++ [s.fifo.oldest Config.chunkSamples] }) := by
  rw [exec_pop] at h
  rcases Nat.lt_or_ge s.fifo.fill (2 * Config.chunkSamples) with hlt | hge
  · rw [popChunk_of_short _ _ hlt] at h
    cases h
    exact .inl ⟨hlt, rfl⟩
  · rw [popChunk_of_full _ _ hge] at h
    cases h
    exact .inr ⟨hge, rfl⟩

/-- SETGAIN either sets a finite gain or is refused (R113). -/
theorem exec_setGain_cases {g : F64} {s t : State} (h : exec (.setGain g) s = .next t) :
    (f64IsFinite g = true ∧ t = { s with gain := g }) ∨
      (f64IsFinite g = false ∧ t = s.refuse (.nonFiniteGain g)) := by
  cases hfin : f64IsFinite g with
  | true =>
    rw [exec_setGain_finite hfin] at h
    cases h
    exact .inl ⟨rfl, rfl⟩
  | false =>
    rw [exec_setGain_refused hfin] at h
    cases h
    exact .inr ⟨rfl, rfl⟩

/-- The ring buffer after the body of a tick: one push where a sample is due, otherwise as before (R121). -/
theorem tickBody_fifo_cases (s : State) :
    (1789773 ≤ s.acc + 96000 ∧ ∃ x, s.tickBody.fifo = s.fifo.push x) ∨
      (s.acc + 96000 < 1789773 ∧ s.tickBody.fifo = s.fifo) := by
  rw [State.tickBody_fifo]
  by_cases hdue : 1789773 ≤ s.acc + 96000
  · exact .inl ⟨hdue, _, if_pos hdue⟩
  · exact .inr ⟨Nat.lt_of_not_le hdue, if_neg hdue⟩

/-- A tick's push leaves the read head alone. -/
@[simp] theorem tickBody_rHead (s : State) : s.tickBody.fifo.rHead = s.fifo.rHead := by
  rcases tickBody_fifo_cases s with ⟨-, x, e⟩ | ⟨-, e⟩ <;> rw [e]
  exact Fifo.push_rHead _ _

/-- Settles O28: the test of R120 is true, so nothing is done. -/
theorem tickHoldsOnAFullBuffer : Obligations.TickHoldsOnAFullBuffer := by
  intro s hdue hfull
  rw [exec_tick, if_pos (s.tickHolds_iff.2 ⟨hdue, hfull⟩)]

/-! ### Shared state -/

/-- Settles O53, by the format of the command: what that command's own lemma says it leaves alone. -/
theorem onlyTheNamedCommandsChangeSharedState : Obligations.OnlyTheNamedCommandsChangeSharedState := by
  intro i s t h
  induction i using instr_formats with
  | write a d =>
    obtain ⟨hfc, hacc, hgain, hfifo, hmarks, hstream, hreads, hchunks⟩ := exec_writeAt_frame h
    refine ⟨fun _ => .inl ⟨a, d, rfl⟩, ?_⟩
    simp [hfc, hacc, hgain, hfifo, hmarks, hstream, hreads, hchunks]
  | writeFlag a b v =>
    rw [exec_writeFlag_eq] at h
    obtain ⟨hfc, hacc, hgain, hfifo, hmarks, hstream, hreads, hchunks⟩ := exec_writeAt_frame h
    refine ⟨fun _ => .inr ⟨a, b, v, rfl⟩, ?_⟩
    simp [hfc, hacc, hgain, hfifo, hmarks, hstream, hreads, hchunks]
  | read a =>
    cases h
    simp
  | tick =>
    rcases exec_tick_cases h with ⟨-, rfl⟩ | ⟨-, rfl⟩ <;> simp
  | pop =>
    rcases exec_pop_cases h with ⟨-, rfl⟩ | ⟨-, rfl⟩ <;> simp [Fifo.drop]
  | setGain g =>
    rcases exec_setGain_cases h with ⟨hfin, rfl⟩ | ⟨hfin, rfl⟩ <;> simp [hfin]

/-- The marks after a command: as before, or with one refusal more (R131). -/
theorem exec_marks {i : Instr} {s t : State} (h : exec i s = .next t) :
    t.marks = s.marks ∨ ∃ r, t.marks = (s.refuse r).marks := by
  obtain ⟨-, -, -, -, -, -, hmarks, -⟩ := onlyTheNamedCommandsChangeSharedState i s t h
  by_cases hsame : t.marks = s.marks
  · exact .inl hsame
  · obtain ⟨g, rfl, hfin⟩ := hmarks hsame
    rw [exec_setGain_refused hfin] at h
    cases h
    exact .inr ⟨_, rfl⟩

/-! ### Steps -/

/-- What a step of a sound and unmarked machine is with a command next: a refusal or that command. -/
theorem step_sound {s : State} {c : Command} {rest : List Command} (hs : s.stream = c :: rest) (hwf : s.Wf)
    (hfault : s.marks.fault = false) :
    (∃ e, decode c = .error e ∧ step s = .next (s.takeCommand.refuse (.undecodableWord c.word))) ∨
      ∃ i, decode c = .ok i ∧ step s = exec i s.takeCommand := by
  rcases step_cases s with ⟨hnil, -⟩ | ⟨c', rest', hs', hstep⟩
  · rw [hs] at hnil
    cases hnil
  rw [hs] at hs'
  cases hs'
  rcases hstep with ⟨hmarked, -⟩ | ⟨-, hbroken, -⟩ | ⟨-, -, hrefused⟩ | ⟨-, -, hrun⟩
  · rw [hfault] at hmarked
    cases hmarked
  · exact absurd hwf hbroken
  · exact .inl hrefused
  · exact .inr hrun

/-- The state with its command taken, the rest of the stream named. -/
theorem takeCommand_eq {s : State} {c : Command} {rest : List Command} (hs : s.stream = c :: rest) :
    s.takeCommand = { s with stream := rest } := by
  rw [State.takeCommand, hs, List.tail_cons]

/-- Settles O5: nothing refuses a word that decodes. -/
theorem stepRunsTheDecodedCommand : Obligations.StepRunsTheDecodedCommand := by
  intro s c rest i hs hwf hfault hd
  rcases step_sound hs hwf hfault with ⟨e, he, -⟩ | ⟨j, hj, hstep⟩
  · rw [hd] at he
    cases he
  · rw [hd] at hj
    cases hj
    rw [hstep, takeCommand_eq hs]

/-- Settles O6: nothing runs on a word that does not decode. -/
theorem stepRefusesAnUndecodableWord : Obligations.StepRefusesAnUndecodableWord := by
  intro s c rest e hs hwf hfault hd
  rcases step_sound hs hwf hfault with ⟨-, -, hstep⟩ | ⟨j, hj, -⟩
  · rw [hstep, takeCommand_eq hs]
    rfl
  · rw [hd] at hj
    cases hj

/-- Settles O7: of the four things a step can do with a command next, the marked state does only the first and the broken one only
the second. -/
theorem stepFaultsOnABrokenInvariant : Obligations.StepFaultsOnABrokenInvariant := by
  intro s hs
  rcases step_cases s with ⟨hnil, -⟩ | ⟨c, rest, -, hstep⟩
  · exact absurd hnil hs
  rcases hstep with ⟨hmarked, hstep⟩ | ⟨hclear, -, hstep⟩ | ⟨hclear, hwf, -⟩ | ⟨hclear, hwf, -⟩
  · exact ⟨fun hclear => by simp [hmarked] at hclear, fun _ => hstep⟩
  · exact ⟨fun _ _ => hstep, fun hmarked => by simp [hclear] at hmarked⟩
  · exact ⟨fun _ hbroken => absurd hwf hbroken, fun hmarked => by simp [hclear] at hmarked⟩
  · exact ⟨fun _ hbroken => absurd hwf hbroken, fun hmarked => by simp [hclear] at hmarked⟩

/-- Settles O8: a refusal is a next state, every command completes, and neither touches the fault mark. -/
theorem soundMachineAlwaysSteps : Obligations.SoundMachineAlwaysSteps := by
  intro s hwf hfault
  cases hs : s.stream with
  | nil => exact ⟨s, by simp [step, State.nextStep, hs], hfault⟩
  | cons c rest =>
    rcases step_sound hs hwf hfault with ⟨-, -, hstep⟩ | ⟨i, -, hstep⟩
    · exact ⟨_, hstep, hfault⟩
    · obtain ⟨t, ht⟩ := exec_completes i s.takeCommand
      refine ⟨t, hstep.trans ht, ?_⟩
      rcases exec_marks ht with hmarks | ⟨r, hmarks⟩ <;> rw [hmarks] <;> exact hfault

/-- What the marks keep from one state to a later one (R33, R131). -/
def MarksKept (m n : Marks) : Prop :=
  (m.refused = true → n.refused = true) ∧ (m.fault = true → n.fault = true) ∧ m.refusals <+: n.refusals

theorem marksKept_refl (m : Marks) : MarksKept m m := ⟨id, id, List.prefix_rfl⟩

theorem marksKept_refuse (s : State) (r : RefusalRecord) : MarksKept s.marks (s.refuse r).marks :=
  ⟨fun _ => rfl, id, List.prefix_append _ _⟩

/-- Settles O9, by what a step can do: the same marks, the fault mark set, or one refusal more. -/
theorem marksAreNeverCleared : Obligations.MarksAreNeverCleared := by
  intro s t h
  show MarksKept s.marks t.marks
  rcases step_cases s with ⟨-, hstep⟩ | ⟨c, rest, -, hstep⟩
  · rw [hstep] at h
    cases h
    exact marksKept_refl _
  rcases hstep with ⟨-, hstep⟩ | ⟨-, -, hstep⟩ | ⟨-, -, -, -, hstep⟩ | ⟨-, -, i, -, hstep⟩ <;> rw [hstep] at h
  · cases h
  · cases h
    exact ⟨id, fun _ => rfl, List.prefix_rfl⟩
  · cases h
    exact marksKept_refuse s.takeCommand _
  · rcases exec_marks h with hmarks | ⟨r, hmarks⟩ <;> rw [hmarks]
    · exact marksKept_refl _
    · exact marksKept_refuse s.takeCommand r

end Sys2Proof.Proofs.Steps

/-! PROOFS. The invariant of the whole machine (10_state.md, 20_memory.md section 3, 60_exceptions.md section 1; R134). -/

namespace Sys2Proof.Proofs.Invariant

open Sys2Proof Sys2Proof.Machine
open Sys2Proof.Proofs.Encoding (instr_formats)
open Sys2Proof.Proofs.Writes (exec_writeAt_frame exec_writeFlag_eq)
open Sys2Proof.Proofs.Steps

/-! ### The actions of the 32 addresses (R107) -/

/-- The registers that a WRITE only stores in: $4017 and the 16 store-only registers (R109, R110). -/
def storedOnly : List RegIndex :=
  [0x09#5, 0x0D#5, 0x10#5, 0x11#5, 0x12#5, 0x13#5, 0x14#5, 0x16#5, 0x17#5, 0x18#5, 0x19#5, 0x1A#5, 0x1B#5, 0x1C#5, 0x1D#5,
    0x1E#5, 0x1F#5]

/-- A case for each action of a WRITE, the pulse actions one case over the channel: what holds of every action's result holds of what
the WRITE answers. -/
theorem exec_writeAt_actions {motive : RegIndex → State → Prop} {d : Byte} {s : State}
    (control : ∀ k, motive (pulseCtrlIdx k) (writePulseControl k d s))
    (sweep : ∀ k, motive (pulseSweepIdx k) (writePulseSweep k d s))
    (low : ∀ k, motive (pulseLoIdx k) (writePulseLow k d s))
    (high : ∀ k, motive (pulseHiIdx k) (writePulseHigh k d s))
    (triControl : motive 0x08#5 (writeTriControl d s)) (triLow : motive 0x0A#5 (writeTriLow d s))
    (triHigh : motive 0x0B#5 (writeTriHigh d s)) (noiseControl : motive 0x0C#5 (writeNoiseControl d s))
    (noisePeriod : motive 0x0E#5 (writeNoisePeriod d s)) (noiseLength : motive 0x0F#5 (writeNoiseLength d s))
    (enables : motive 0x15#5 (writeEnables d s)) (store : ∀ a ∈ storedOnly, motive a (s.setReg a d))
    {a : RegIndex} {t : State} (h : exec (writeAt a d) s = .next t) : motive a t := by
  induction a using regIndex_cases with
  | h n =>
    fin_cases n <;> cases h
    · exact control .p0
    · exact sweep .p0
    · exact low .p0
    · exact high .p0
    · exact control .p1
    · exact sweep .p1
    · exact low .p1
    · exact high .p1
    · exact triControl
    · exact store 0x09#5 (by decide)
    · exact triLow
    · exact triHigh
    · exact noiseControl
    · exact store 0x0D#5 (by decide)
    · exact noisePeriod
    · exact noiseLength
    · exact store 0x10#5 (by decide)
    · exact store 0x11#5 (by decide)
    · exact store 0x12#5 (by decide)
    · exact store 0x13#5 (by decide)
    · exact store 0x14#5 (by decide)
    · exact enables
    · exact store 0x16#5 (by decide)
    · exact store 0x17#5 (by decide)
    · exact store 0x18#5 (by decide)
    · exact store 0x19#5 (by decide)
    · exact store 0x1A#5 (by decide)
    · exact store 0x1B#5 (by decide)
    · exact store 0x1C#5 (by decide)
    · exact store 0x1D#5 (by decide)
    · exact store 0x1E#5 (by decide)
    · exact store 0x1F#5 (by decide)

/-! ### Every channel action keeps its channel's bounds -/

theorem pulse_control_wf {p : Pulse} (h : p.Wf) (d : Byte) : (p.control d).Wf := by
  obtain ⟨hraw, htimer, hlen, henv, hsweep, hseq⟩ := h
  exact ⟨hraw, htimer, hlen, Divider.setPeriod_fits henv (fVol d).isLt, hsweep, hseq⟩

theorem pulse_sweepWrite_wf {p : Pulse} (h : p.Wf) (d : Byte) : (p.sweepWrite d).Wf := by
  obtain ⟨hraw, htimer, hlen, henv, hsweep, hseq⟩ := h
  exact ⟨hraw, htimer, hlen, henv, Divider.load_fits hsweep (fSweepPeriod d).isLt, hseq⟩

theorem pulse_loadPeriod_wf {p : Pulse} (h : p.Wf) {raw : Nat} (hle : raw ≤ 2047) : (p.loadPeriod raw).Wf := by
  obtain ⟨-, htimer, hlen, henv, hsweep, hseq⟩ := h
  exact ⟨hle, Divider.load_fits htimer (Nat.lt_succ_of_le hle), hlen, henv, hsweep, hseq⟩

theorem pulse_loadLength_wf {p : Pulse} (h : p.Wf) (d : Byte) : (p.loadLength d).Wf := by
  obtain ⟨hraw, htimer, hlen, henv, hsweep, hseq⟩ := h
  have hcode := (lengthOf_bounds (fLenIdx d)).2
  exact ⟨hraw, htimer, Divider.load_fits hlen (by omega), henv, hsweep, hseq⟩

theorem triangle_control_wf {t : Triangle} (h : t.Wf) (d : Byte) : (t.control d).Wf := by
  obtain ⟨hraw, htimer, hlen, hlin, hseq⟩ := h
  exact ⟨hraw, htimer, hlen, Divider.load_fits hlin (fLinReload d).isLt, hseq⟩

theorem triangle_loadPeriod_wf {t : Triangle} (h : t.Wf) {raw : Nat} (hle : raw ≤ 2047) : (t.loadPeriod raw).Wf := by
  obtain ⟨-, htimer, hlen, hlin, hseq⟩ := h
  exact ⟨hle, Divider.load_fits htimer (Nat.lt_succ_of_le hle), hlen, hlin, hseq⟩

theorem triangle_loadLength_wf {t : Triangle} (h : t.Wf) (d lin : Byte) : (t.loadLength d lin).Wf := by
  obtain ⟨hraw, htimer, hlen, hlin, hseq⟩ := h
  have hcode := (lengthOf_bounds (fLenIdx d)).2
  exact ⟨hraw, htimer, Divider.load_fits hlen (by omega), Divider.load_fits hlin (fLinReload lin).isLt, hseq⟩

theorem noise_control_wf {n : Noise} (h : n.Wf) (d : Byte) : (n.control d).Wf := by
  obtain ⟨htimer, hlen, henv⟩ := h
  exact ⟨htimer, hlen, Divider.setPeriod_fits henv (fVol d).isLt⟩

theorem noise_periodWrite_wf {n : Noise} (h : n.Wf) (d : Byte) : (n.periodWrite d).Wf := by
  obtain ⟨htimer, hlen, henv⟩ := h
  have hperiod := (noisePeriodOf_bounds (fNoiseIdx d)).2
  exact ⟨Divider.load_fits htimer (by omega), hlen, henv⟩

theorem noise_loadLength_wf {n : Noise} (h : n.Wf) (d : Byte) : (n.loadLength d).Wf := by
  obtain ⟨htimer, hlen, henv⟩ := h
  have hcode := (lengthOf_bounds (fLenIdx d)).2
  exact ⟨htimer, Divider.load_fits hlen (by omega), henv⟩

/-! ### The four channels together -/

/-- The bounds of the four channels, the part of `State.Wf` that a WRITE or a frame event can change. -/
def ChannelsWf (s : State) : Prop := s.p0.Wf ∧ s.p1.Wf ∧ s.tri.Wf ∧ s.noise.Wf

/-- A new value of one pulse channel within its bounds keeps all four channels within theirs. -/
theorem channelsWf_setPulse {s : State} (h : ChannelsWf s) {k : PulseId} {p : Pulse} (hp : (s.pulse k).Wf → p.Wf) :
    ChannelsWf (s.setPulse k p) := by
  obtain ⟨h0, h1, htri, hnoise⟩ := h
  cases k with
  | p0 => exact ⟨hp h0, h1, htri, hnoise⟩
  | p1 => exact ⟨h0, hp h1, htri, hnoise⟩

/-- Every WRITE keeps the channels' bounds, by its action. -/
theorem exec_writeAt_channelsWf {a : RegIndex} {d : Byte} {s t : State} (hs : ChannelsWf s)
    (h : exec (writeAt a d) s = .next t) : ChannelsWf t := by
  obtain ⟨h0, h1, htri, hnoise⟩ := id hs
  have hstored : ∀ b, ChannelsWf (s.setReg b d) := fun _ => hs
  refine exec_writeAt_actions (motive := fun _ t => ChannelsWf t) (fun k => ?_) (fun k => ?_) (fun k => ?_) (fun k => ?_)
    ⟨h0, h1, triangle_control_wf htri d, hnoise⟩ ⟨h0, h1, triangle_loadPeriod_wf htri (assemblePeriod_le _ _), hnoise⟩
    ⟨h0, h1, triangle_loadLength_wf (triangle_loadPeriod_wf htri (assemblePeriod_le _ _)) d _, hnoise⟩
    ⟨h0, h1, htri, noise_control_wf hnoise d⟩ ⟨h0, h1, htri, noise_periodWrite_wf hnoise d⟩
    ⟨h0, h1, htri, noise_loadLength_wf hnoise d⟩ ⟨h0, h1, htri, hnoise⟩ (fun _ _ => hs) h
  · exact channelsWf_setPulse (hstored _) fun hp => pulse_control_wf (by cases k <;> exact hp) d
  · exact channelsWf_setPulse (hstored _) fun hp => pulse_sweepWrite_wf (by cases k <;> exact hp) d
  · exact channelsWf_setPulse (hstored _) fun hp =>
      pulse_loadPeriod_wf (by cases k <;> exact hp) (assemblePeriod_le _ _)
  · exact channelsWf_setPulse (hstored _) fun hp =>
      pulse_loadLength_wf (pulse_loadPeriod_wf (by cases k <;> exact hp) (assemblePeriod_le _ _)) d

theorem quarterFrame_channelsWf {s : State} (h : ChannelsWf s) : ChannelsWf s.quarterFrame := by
  obtain ⟨h0, h1, htri, hnoise⟩ := h
  exact ⟨Pulse.quarter_wf h0, Pulse.quarter_wf h1, Triangle.quarter_wf htri, Noise.quarter_wf hnoise⟩

theorem halfFrame_channelsWf {s : State} (h : ChannelsWf s) : ChannelsWf s.halfFrame := by
  obtain ⟨h0, h1, htri, hnoise⟩ := h
  exact ⟨Pulse.half_wf .p0 h0, Pulse.half_wf .p1 h1, Triangle.half_wf htri, Noise.half_wf hnoise⟩

theorem clockChannels_channelsWf {s : State} (h : ChannelsWf s) : ChannelsWf s.clockChannels := by
  obtain ⟨h0, h1, htri, hnoise⟩ := h
  exact ⟨Pulse.clock_wf h0, Pulse.clock_wf h1, Triangle.clock_wf htri, Noise.clock_wf hnoise⟩

/-- What a quarter frame, a half frame and the channel clocks each keep, the frame events and the clocks of a tick keep together. -/
theorem ticked_of_parts {motive : State → Prop} {s : State} (quarter : ∀ u, motive u → motive u.quarterFrame)
    (half : ∀ u, motive u → motive u.halfFrame) (clock : ∀ u, motive u → motive u.clockChannels) (h : motive s) :
    motive s.ticked := by
  refine clock _ ?_
  simp only [State.frameEvents]
  split <;> split
  · exact half _ (quarter _ h)
  · exact half _ h
  · exact quarter _ h
  · exact h

theorem ticked_channelsWf {s : State} (h : ChannelsWf s) : ChannelsWf s.ticked :=
  ticked_of_parts (motive := ChannelsWf) (fun _ => quarterFrame_channelsWf) (fun _ => halfFrame_channelsWf)
    (fun _ => clockChannels_channelsWf) h

/-! ### The ring buffer -/

/-- The write head is the fill ahead of the read head (R30). -/
theorem wHead_eq {f : Fifo} (h : f.Wf) : f.wHead = (f.rHead + f.fill) % 192000 := by
  obtain ⟨hw, hr, hle, hmid, hends⟩ := h
  simp only [fifoCapacity_val] at *
  omega

/-- The bounds of the ring buffer, said with the distance of the heads. -/
theorem fifoWf_of_wHead_eq {f : Fifo} (hr : f.rHead < 192000) (hle : f.fill ≤ 192000)
    (hw : f.wHead = (f.rHead + f.fill) % 192000) : f.Wf := by
  refine ⟨?_, hr, hle, ?_, ?_⟩ <;> simp only [fifoCapacity_val] <;> omega

/-- A push into 2 free bytes keeps the ring buffer's bounds (R123). -/
theorem push_fifoWf {f : Fifo} (h : f.Wf) (hroom : f.fill ≤ 192000 - 2) (x : Sample) : (f.push x).Wf := by
  have hw := wHead_eq h
  obtain ⟨-, hr, -⟩ := h
  refine fifoWf_of_wHead_eq hr (by rw [Fifo.push_fill]; omega) ?_
  rw [Fifo.push_wHead, Fifo.push_rHead, Fifo.push_fill, hw]
  omega

/-- The removal of buffered samples keeps the ring buffer's bounds (R125). -/
theorem drop_fifoWf {f : Fifo} (h : f.Wf) {n : Nat} (hfull : 2 * n ≤ f.fill) : (f.drop n).Wf := by
  have hw := wHead_eq h
  obtain ⟨-, -, hle, -⟩ := h
  refine fifoWf_of_wHead_eq (Nat.mod_lt _ (by decide)) ?_ ?_ <;> simp only [Fifo.drop, fifoCapacity_val] at * <;> omega

/-! ### Every command keeps the invariant -/

/-- A TICK that does not hold keeps the bounds of 10_state.md. -/
theorem tickBody_wf {s : State} (h : s.Wf) (hholds : s.tickHolds = false) : s.tickBody.Wf := by
  obtain ⟨h0, h1, htri, hnoise, -, hacc, hgain, hfifo⟩ := h
  have hchannels : ChannelsWf s := ⟨h0, h1, htri, hnoise⟩
  obtain ⟨k0, k1, ktri, knoise⟩ := ticked_channelsWf hchannels
  have hroom := room_of_runs hholds
  have hfc : s.tickBody.fc < 18641 := by
    rw [State.tickBody_fc, frameWrap_eq]
    split_ifs <;> omega
  have hacc' : s.tickBody.acc < 1789773 := by
    rw [chipClockHz_val] at hacc
    rw [State.tickBody_acc]
    split_ifs <;> omega
  have hfifo' : s.tickBody.fifo.Wf := by
    rcases tickBody_fifo_cases s with ⟨hdue, x, e⟩ | ⟨-, e⟩ <;> rw [e]
    · exact push_fifoWf hfifo (by omega) x
    · exact hfifo
  refine ⟨?_, ?_, ?_, ?_, hfc, hacc', ?_, hfifo'⟩
  · rwa [State.tickBody_p0]
  · rwa [State.tickBody_p1]
  · rwa [State.tickBody_tri]
  · rwa [State.tickBody_noise]
  · rwa [State.tickBody_gain]

/-- A TICK that does not hold keeps the invariant. -/
theorem tickBody_inv {s : State} (h : s.Inv) (hholds : s.tickHolds = false) : s.tickBody.Inv := by
  obtain ⟨hwf, hw, hr, hfill, hlock, hcells, hmarks⟩ := h
  refine ⟨tickBody_wf hwf hholds, ?_⟩
  rw [State.tickBody_marks]
  rcases tickBody_fifo_cases s with ⟨-, x, hfifo⟩ | ⟨-, hfifo⟩ <;> rw [hfifo]
  · refine ⟨?_, hr, ?_, Fifo.push_wlock _ _, Fifo.push_wf _ hcells _, hmarks⟩
    · rw [Fifo.push_wHead]
      omega
    · rw [Fifo.push_fill]
      omega
  · exact ⟨hw, hr, hfill, hlock, hcells, hmarks⟩

/-- Every command keeps the invariant, by its format. -/
theorem exec_inv {i : Instr} {s t : State} (hs : s.Inv) (h : exec i s = .next t) : t.Inv := by
  have hwrite : ∀ {a d}, exec (writeAt a d) s = .next t → t.Inv := fun {a d} hw => by
    obtain ⟨⟨h0, h1, htri, hnoise, hfc, hacc, hgain, hfifo⟩, hrest⟩ := hs
    obtain ⟨k0, k1, ktri, knoise⟩ := exec_writeAt_channelsWf ⟨h0, h1, htri, hnoise⟩ hw
    obtain ⟨efc, eacc, egain, efifo, emarks, -⟩ := exec_writeAt_frame hw
    refine ⟨⟨k0, k1, ktri, knoise, ?_⟩, ?_⟩
    · rw [efc, eacc, egain, efifo]
      exact ⟨hfc, hacc, hgain, hfifo⟩
    · rwa [efifo, emarks]
  induction i using instr_formats with
  | write a d => exact hwrite h
  | writeFlag a b v => exact hwrite (by rwa [exec_writeFlag_eq] at h)
  | read a =>
    cases h
    exact hs
  | tick =>
    rcases exec_tick_cases h with ⟨-, rfl⟩ | ⟨hholds, rfl⟩
    · exact hs
    · exact tickBody_inv hs hholds
  | pop =>
    rcases exec_pop_cases h with ⟨-, rfl⟩ | ⟨hfull, rfl⟩
    · exact hs
    · obtain ⟨⟨h0, h1, htri, hnoise, hfc, hacc, hgain, hfifo⟩, hw, hr, hfill, hlock, hcells, hmarks⟩ := hs
      refine ⟨⟨h0, h1, htri, hnoise, hfc, hacc, hgain, drop_fifoWf hfifo hfull⟩, hw, ?_, ?_, hlock, hcells, hmarks⟩ <;>
        simp only [Fifo.drop, fifoCapacity_val] <;> omega
  | setGain g =>
    obtain ⟨⟨h0, h1, htri, hnoise, hfc, hacc, hgain, hfifo⟩, hw, hr, hfill, hlock, hcells, hmarks⟩ := hs
    rcases exec_setGain_cases h with ⟨hfin, rfl⟩ | ⟨-, rfl⟩
    · exact ⟨⟨h0, h1, htri, hnoise, hfc, hacc, hfin, hfifo⟩, hw, hr, hfill, hlock, hcells, hmarks⟩
    · exact ⟨⟨h0, h1, htri, hnoise, hfc, hacc, hgain, hfifo⟩, hw, hr, hfill, hlock, hcells, by simp⟩

/-- A refusal keeps the invariant: the mark and the record are set together (R131). -/
theorem refuse_inv {s : State} (h : s.Inv) (r : RefusalRecord) : (s.refuse r).Inv := by
  obtain ⟨hwf, hw, hr, hfill, hlock, hcells, -⟩ := h
  exact ⟨hwf, hw, hr, hfill, hlock, hcells, by simp⟩

/-- Settles O51: a step of a state that meets the invariant never finds it broken, so it is no step at all, a refusal or a command. -/
theorem everyStepKeepsTheInvariant : Obligations.EveryStepKeepsTheInvariant := by
  intro s t hs h
  have htake : s.takeCommand.Inv := hs
  rcases step_cases s with ⟨-, hstep⟩ | ⟨c, rest, -, hstep⟩
  · rw [hstep] at h
    cases h
    exact hs
  rcases hstep with ⟨-, hstep⟩ | ⟨-, hbroken, -⟩ | ⟨-, -, -, -, hstep⟩ | ⟨-, -, i, -, hstep⟩
  · rw [hstep] at h
    cases h
  · exact absurd hs.1 hbroken
  · rw [hstep] at h
    cases h
    exact refuse_inv htake _
  · rw [hstep] at h
    exact exec_inv htake h

/-- Settles O50: at reset every bound holds with 0 in it, and every channel field agrees with the register bytes 0x00. -/
theorem resetSatisfiesTheInvariants : Obligations.ResetSatisfiesTheInvariants := by
  have hwf : State.reset.Wf := State.broken_eq_false.1 rfl
  have hpulse : ∀ k, State.reset.PulseCoherent k := fun k => by
    cases k <;> exact ⟨rfl, rfl, rfl, rfl, rfl, rfl, rfl, rfl, rfl, rfl, rfl, fun h => by cases h⟩
  exact ⟨⟨hwf, rfl, rfl, rfl, rfl, cellsWf_nil, by decide⟩, hpulse .p0, hpulse .p1, ⟨rfl, rfl, rfl, rfl, rfl, rfl⟩,
    ⟨rfl, rfl, rfl, rfl, rfl, rfl, rfl, rfl⟩⟩

end Sys2Proof.Proofs.Invariant

/-! PROOFS. The agreement of the channels with the last register writes (10_state.md section 2, 90_conflicts.md C12; R14). -/

namespace Sys2Proof.Proofs.Coherence

open Sys2Proof Sys2Proof.Machine
open Sys2Proof.Proofs.Encoding (instr_formats)
open Sys2Proof.Proofs.Writes
open Sys2Proof.Proofs.Steps
open Sys2Proof.Proofs.Invariant (exec_writeAt_actions ticked_of_parts)

/-! ### The agreement of one channel with its bytes -/

/-- `State.PulseCoherent` with the channel and its three register bytes named. -/
def PulseAgrees (k : PulseId) (p : Pulse) (ctrl swp en : Byte) : Prop :=
  p.duty = fDuty ctrl ∧ p.len.halt = fHalt ctrl ∧ p.env.loop = fHalt ctrl ∧ p.env.constant = fConst ctrl ∧
    p.env.volume = fVol ctrl ∧ p.env.div.period = (fVol ctrl).toNat ∧
    p.sweep.enabled = fSweepEnable swp ∧ p.sweep.negate = fSweepNegate swp ∧ p.sweep.shift = fSweepShift swp ∧
    p.sweep.div.period = (fSweepPeriod swp).toNat ∧ p.timer.period = p.raw ∧
    (p.enabled = true → fEnablePulse k en = true)

theorem pulseCoherent_iff (s : State) (k : PulseId) : s.PulseCoherent k ↔
    PulseAgrees k (s.pulse k) (s.getReg (pulseCtrlIdx k)) (s.getReg (pulseSweepIdx k)) (s.getReg 0x15#5) := Iff.rfl

/-- `State.TriCoherent` with the channel and its four register bytes named. -/
def TriAgrees (t : Triangle) (ctrl lo hi en : Byte) : Prop :=
  t.len.halt = fTriCtrl ctrl ∧ t.lin.halt = fTriCtrl ctrl ∧ t.lin.div.period = (fLinReload ctrl).toNat ∧
    t.raw = assemblePeriod hi lo ∧ t.timer.period = t.raw ∧ t.enabled = fEnableTri en

theorem triCoherent_iff (s : State) : s.TriCoherent ↔
    TriAgrees s.tri (s.getReg 0x08#5) (s.getReg 0x0A#5) (s.getReg 0x0B#5) (s.getReg 0x15#5) := Iff.rfl

/-- `State.NoiseCoherent` with the channel and its three register bytes named. -/
def NoiseAgrees (n : Noise) (ctrl per en : Byte) : Prop :=
  n.len.halt = fHalt ctrl ∧ n.env.loop = fHalt ctrl ∧ n.env.constant = fConst ctrl ∧ n.env.volume = fVol ctrl ∧
    n.env.div.period = (fVol ctrl).toNat ∧ n.pidx = fNoiseIdx per ∧ n.lfsr.mode = fNoiseMode per ∧
    n.enabled = fEnableNoise en

theorem noiseCoherent_iff (s : State) : s.NoiseCoherent ↔
    NoiseAgrees s.noise (s.getReg 0x0C#5) (s.getReg 0x0E#5) (s.getReg 0x15#5) := Iff.rfl

section Pulse

variable {k : PulseId} {p : Pulse} {ctrl swp en : Byte}

theorem pulse_control_agrees (h : PulseAgrees k p ctrl swp en) (d : Byte) : PulseAgrees k (p.control d) d swp en := by
  obtain ⟨-, -, -, -, -, -, hsweep⟩ := h
  exact ⟨rfl, rfl, rfl, rfl, rfl, rfl, hsweep⟩

theorem pulse_sweepWrite_agrees (h : PulseAgrees k p ctrl swp en) (d : Byte) :
    PulseAgrees k (p.sweepWrite d) ctrl d en := by
  obtain ⟨hduty, hhalt, hloop, hconst, hvol, hper, -, -, -, -, hrest⟩ := h
  exact ⟨hduty, hhalt, hloop, hconst, hvol, hper, rfl, rfl, rfl, rfl, hrest⟩

theorem pulse_loadPeriod_agrees (h : PulseAgrees k p ctrl swp en) (raw : Nat) :
    PulseAgrees k (p.loadPeriod raw) ctrl swp en := by
  obtain ⟨hduty, hhalt, hloop, hconst, hvol, hper, hswen, hneg, hshift, hswper, -, hen⟩ := h
  exact ⟨hduty, hhalt, hloop, hconst, hvol, hper, hswen, hneg, hshift, hswper, rfl, hen⟩

theorem pulse_loadLength_agrees (h : PulseAgrees k p ctrl swp en) (d : Byte) :
    PulseAgrees k (p.loadLength d) ctrl swp en := h

theorem pulse_enable_agrees (h : PulseAgrees k p ctrl swp en) (d : Byte) :
    PulseAgrees k { p with enabled := fEnablePulse k d } ctrl swp d := by
  obtain ⟨hduty, hhalt, hloop, hconst, hvol, hper, hswen, hneg, hshift, hswper, hraw, -⟩ := h
  exact ⟨hduty, hhalt, hloop, hconst, hvol, hper, hswen, hneg, hshift, hswper, hraw, id⟩

theorem pulse_quarter_agrees (h : PulseAgrees k p ctrl swp en) : PulseAgrees k p.quarter ctrl swp en := by
  simpa [PulseAgrees] using h

theorem pulse_clock_agrees (h : PulseAgrees k p ctrl swp en) : PulseAgrees k p.clock ctrl swp en := by
  simpa [PulseAgrees] using h

/-- A half frame: what it sets by its sweep, it sets in the raw period and the timer alike, and a mute only clears the flag (R89). -/
theorem pulse_half_agrees (h : PulseAgrees k p ctrl swp en) : PulseAgrees k (p.half k) ctrl swp en := by
  obtain ⟨hduty, hhalt, hloop, hconst, hvol, hper, hswen, hneg, hshift, hswper, hraw, hen⟩ := h
  have hhalt' : p.len.clock.1.halt = fHalt ctrl := by rwa [LengthCounter.clock_halt]
  have hswen' : (p.sweep.clock k p.raw).1.enabled = fSweepEnable swp := by rwa [Sweep.clock_enabled]
  have hneg' : (p.sweep.clock k p.raw).1.negate = fSweepNegate swp := by rwa [Sweep.clock_negate]
  have hshift' : (p.sweep.clock k p.raw).1.shift = fSweepShift swp := by rwa [Sweep.clock_shift]
  have hswper' : (p.sweep.clock k p.raw).1.div.period = (fSweepPeriod swp).toNat := by rwa [Sweep.clock_period]
  rcases Pulse.half_cases k p with ⟨e, -⟩ | ⟨t, e, -⟩ | ⟨e, -⟩ <;> rw [e]
  · exact ⟨hduty, hhalt', hloop, hconst, hvol, hper, hswen', hneg', hshift', hswper', hraw, hen⟩
  · exact ⟨hduty, hhalt', hloop, hconst, hvol, hper, hswen', hneg', hshift', hswper', rfl, hen⟩
  · exact ⟨hduty, hhalt', hloop, hconst, hvol, hper, hswen', hneg', hshift', hswper', hraw, fun h => by cases h⟩

end Pulse

section Triangle

variable {t : Triangle} {ctrl lo hi en : Byte}

theorem tri_control_agrees (h : TriAgrees t ctrl lo hi en) (d : Byte) : TriAgrees (t.control d) d lo hi en := by
  obtain ⟨-, -, -, hrest⟩ := h
  exact ⟨rfl, rfl, rfl, hrest⟩

/-- A period write makes the channel agree with the two bytes that its period was assembled from (R92, R93). -/
theorem tri_loadPeriod_agrees (h : TriAgrees t ctrl lo hi en) (lo' hi' : Byte) :
    TriAgrees (t.loadPeriod (assemblePeriod hi' lo')) ctrl lo' hi' en := by
  obtain ⟨hhalt, hlinhalt, hlin, -, -, hen⟩ := h
  exact ⟨hhalt, hlinhalt, hlin, rfl, rfl, hen⟩

theorem tri_loadLength_agrees (h : TriAgrees t ctrl lo hi en) (d : Byte) : TriAgrees (t.loadLength d ctrl) ctrl lo hi en := by
  obtain ⟨hhalt, hlinhalt, -, hrest⟩ := h
  exact ⟨hhalt, hlinhalt, rfl, hrest⟩

theorem tri_enable_agrees (h : TriAgrees t ctrl lo hi en) (d : Byte) :
    TriAgrees { t with enabled := fEnableTri d } ctrl lo hi d := by
  obtain ⟨hhalt, hlinhalt, hlin, hraw, htimer, -⟩ := h
  exact ⟨hhalt, hlinhalt, hlin, hraw, htimer, rfl⟩

theorem tri_quarter_agrees (h : TriAgrees t ctrl lo hi en) : TriAgrees t.quarter ctrl lo hi en := by
  simpa [TriAgrees, Triangle.quarter] using h

theorem tri_half_agrees (h : TriAgrees t ctrl lo hi en) : TriAgrees t.half ctrl lo hi en := by
  simpa [TriAgrees, Triangle.half] using h

theorem tri_clock_agrees (h : TriAgrees t ctrl lo hi en) : TriAgrees t.clock ctrl lo hi en := by
  simpa [TriAgrees, Triangle.clock, Triangle.clockOnce] using h

end Triangle

section Noise

variable {n : Noise} {ctrl per en : Byte}

theorem noise_control_agrees (h : NoiseAgrees n ctrl per en) (d : Byte) : NoiseAgrees (n.control d) d per en := by
  obtain ⟨-, -, -, -, -, hrest⟩ := h
  exact ⟨rfl, rfl, rfl, rfl, rfl, hrest⟩

theorem noise_periodWrite_agrees (h : NoiseAgrees n ctrl per en) (d : Byte) : NoiseAgrees (n.periodWrite d) ctrl d en := by
  obtain ⟨hhalt, hloop, hconst, hvol, hper, -, -, hen⟩ := h
  exact ⟨hhalt, hloop, hconst, hvol, hper, rfl, rfl, hen⟩

theorem noise_loadLength_agrees (h : NoiseAgrees n ctrl per en) (d : Byte) : NoiseAgrees (n.loadLength d) ctrl per en := h

theorem noise_enable_agrees (h : NoiseAgrees n ctrl per en) (d : Byte) :
    NoiseAgrees { n with enabled := fEnableNoise d } ctrl per d := by
  obtain ⟨hhalt, hloop, hconst, hvol, hper, hidx, hmode, -⟩ := h
  exact ⟨hhalt, hloop, hconst, hvol, hper, hidx, hmode, rfl⟩

theorem noise_quarter_agrees (h : NoiseAgrees n ctrl per en) : NoiseAgrees n.quarter ctrl per en := by
  simpa [NoiseAgrees, Noise.quarter] using h

theorem noise_half_agrees (h : NoiseAgrees n ctrl per en) : NoiseAgrees n.half ctrl per en := by
  simpa [NoiseAgrees, Noise.half] using h

theorem noise_clock_agrees (h : NoiseAgrees n ctrl per en) : NoiseAgrees n.clock ctrl per en := by
  obtain ⟨hhalt, hloop, hconst, hvol, hper, hidx, hmode, hen⟩ := h
  refine ⟨hhalt, hloop, hconst, hvol, hper, hidx, ?_, hen⟩
  simp only [Noise.clock]
  split
  · rwa [Lfsr.clock_mode]
  · exact hmode

end Noise

/-! ### A WRITE of a register that a channel does not agree with -/

/-- The bytes of a state after a WRITE of `d` at `a` (`exec_writeAt_getReg`). -/
def Stored (s : State) (a : RegIndex) (d : Byte) (t : State) : Prop :=
  ∀ b, t.getReg b = if b = a then d else s.getReg b

theorem stored_same {s t : State} {a : RegIndex} {d : Byte} (h : Stored s a d t) : t.getReg a = d := by
  rw [h, if_pos rfl]

theorem stored_other {s t : State} {a b : RegIndex} {d : Byte} (h : Stored s a d t) (hne : b ≠ a) :
    t.getReg b = s.getReg b := by
  rw [h, if_neg hne]

/-- None of the three registers that pulse channel `j` agrees with is `a`. -/
abbrev PulseOther (j : PulseId) (a : RegIndex) : Prop := pulseCtrlIdx j ≠ a ∧ pulseSweepIdx j ≠ a ∧ 0x15#5 ≠ a

theorem pulseOther_low (k : PulseId) : PulseOther k (pulseLoIdx k) := by cases k <;> decide

theorem pulseOther_high (k : PulseId) : PulseOther k (pulseHiIdx k) := by cases k <;> decide

/-- No register of one pulse channel is one that the other agrees with. -/
theorem pulseOther_pulse : ∀ {j k : PulseId}, j ≠ k →
    PulseOther j (pulseCtrlIdx k) ∧ PulseOther j (pulseSweepIdx k) ∧ PulseOther j (pulseLoIdx k) ∧
      PulseOther j (pulseHiIdx k)
  | .p0, .p0, h | .p1, .p1, h => absurd rfl h
  | .p0, .p1, _ | .p1, .p0, _ => by decide

/-- None of the registers that the triangle agrees with is `a`. -/
abbrev TriOther (a : RegIndex) : Prop := 0x08#5 ≠ a ∧ 0x0A#5 ≠ a ∧ 0x0B#5 ≠ a ∧ 0x15#5 ≠ a

/-- None of the registers that the noise channel agrees with is `a`. -/
abbrev NoiseOther (a : RegIndex) : Prop := 0x0C#5 ≠ a ∧ 0x0E#5 ≠ a ∧ 0x15#5 ≠ a

/-- With its three bytes as before, a pulse channel is coherent when it agrees with the bytes before. -/
theorem pulseCoherent_of_other {s t : State} {a : RegIndex} {d : Byte} {j : PulseId} (hst : Stored s a d t)
    (ha : PulseOther j a)
    (h : PulseAgrees j (t.pulse j) (s.getReg (pulseCtrlIdx j)) (s.getReg (pulseSweepIdx j)) (s.getReg 0x15#5)) :
    t.PulseCoherent j := by
  obtain ⟨hctrl, hswp, hen⟩ := ha
  rwa [pulseCoherent_iff, stored_other hst hctrl, stored_other hst hswp, stored_other hst hen]

/-- A channel that a WRITE of another register leaves as it was stays coherent. -/
theorem pulseCoherent_kept {s t : State} {a : RegIndex} {d : Byte} {j : PulseId} (hs : s.PulseCoherent j)
    (hst : Stored s a d t) (ha : PulseOther j a) (hp : t.pulse j = s.pulse j) : t.PulseCoherent j :=
  pulseCoherent_of_other hst ha (hp ▸ hs)

theorem triCoherent_kept {s t : State} {a : RegIndex} {d : Byte} (hs : s.TriCoherent) (hst : Stored s a d t)
    (ha : TriOther a) (ht : t.tri = s.tri) : t.TriCoherent := by
  obtain ⟨hctrl, hlo, hhi, hen⟩ := ha
  rwa [triCoherent_iff, stored_other hst hctrl, stored_other hst hlo, stored_other hst hhi, stored_other hst hen, ht]

theorem noiseCoherent_kept {s t : State} {a : RegIndex} {d : Byte} (hs : s.NoiseCoherent) (hst : Stored s a d t)
    (ha : NoiseOther a) (hn : t.noise = s.noise) : t.NoiseCoherent := by
  obtain ⟨hctrl, hper, hen⟩ := ha
  rwa [noiseCoherent_iff, stored_other hst hctrl, stored_other hst hper, stored_other hst hen, hn]

theorem storedOnly_pulseOther : ∀ a ∈ Invariant.storedOnly, ∀ j, PulseOther j a := fun a ha j => by
  cases j <;> revert a <;> decide

theorem storedOnly_triOther : ∀ a ∈ Invariant.storedOnly, TriOther a := by decide

theorem storedOnly_noiseOther : ∀ a ∈ Invariant.storedOnly, NoiseOther a := by decide

/-! ### Every WRITE keeps each channel coherent -/

section Writes

variable {a : RegIndex} {d : Byte} {s t : State}

/-- A pulse channel under a WRITE: the actions on its own registers make it agree with the new byte, the others leave it and its bytes
alone. -/
theorem exec_writeAt_pulseCoherent {j : PulseId} (hs : s.PulseCoherent j) (h : exec (writeAt a d) s = .next t) :
    t.PulseCoherent j := by
  have hst : Stored s a d t := exec_writeAt_getReg h
  revert hst
  have kept : ∀ {a t}, PulseOther j a → t.pulse j = s.pulse j → Stored s a d t → t.PulseCoherent j :=
    fun ha hp hst => pulseCoherent_kept hs hst ha hp
  refine exec_writeAt_actions (motive := fun a t => Stored s a d t → t.PulseCoherent j)
    (fun k hst => ?control) (fun k hst => ?sweep) (fun k hst => ?low) (fun k hst => ?high) ?_ ?_ ?_ ?_ ?_ ?_
    (fun hst => ?enables) (fun a ha => kept (storedOnly_pulseOther a ha j) (by cases j <;> rfl)) h
  case control =>
    by_cases hjk : j = k
    · subst hjk
      obtain ⟨hswp, hen⟩ : pulseSweepIdx j ≠ pulseCtrlIdx j ∧ 0x15#5 ≠ pulseCtrlIdx j := by cases j <;> decide
      rw [pulseCoherent_iff, stored_same hst, stored_other hst hswp, stored_other hst hen, writePulseControl,
        State.pulse_setPulse_same]
      exact pulse_control_agrees hs d
    · obtain ⟨hother, -, -, -⟩ := pulseOther_pulse hjk
      exact kept hother (State.pulse_setPulse_other _ _ _ _ hjk) hst
  case sweep =>
    by_cases hjk : j = k
    · subst hjk
      obtain ⟨hctrl, hen⟩ : pulseCtrlIdx j ≠ pulseSweepIdx j ∧ 0x15#5 ≠ pulseSweepIdx j := by cases j <;> decide
      rw [pulseCoherent_iff, stored_same hst, stored_other hst hctrl, stored_other hst hen, writePulseSweep,
        State.pulse_setPulse_same]
      exact pulse_sweepWrite_agrees hs d
    · obtain ⟨-, hother, -, -⟩ := pulseOther_pulse hjk
      exact kept hother (State.pulse_setPulse_other _ _ _ _ hjk) hst
  case low =>
    by_cases hjk : j = k
    · subst hjk
      refine pulseCoherent_of_other hst (pulseOther_low j) ?_
      rw [writePulseLow, State.pulse_setPulse_same]
      exact pulse_loadPeriod_agrees hs _
    · obtain ⟨-, -, hother, -⟩ := pulseOther_pulse hjk
      exact kept hother (State.pulse_setPulse_other _ _ _ _ hjk) hst
  case high =>
    by_cases hjk : j = k
    · subst hjk
      refine pulseCoherent_of_other hst (pulseOther_high j) ?_
      rw [writePulseHigh, State.pulse_setPulse_same]
      exact pulse_loadLength_agrees (pulse_loadPeriod_agrees hs _) d
    · obtain ⟨-, -, -, hother⟩ := pulseOther_pulse hjk
      exact kept hother (State.pulse_setPulse_other _ _ _ _ hjk) hst
  case enables =>
    obtain ⟨hctrl, hswp⟩ : pulseCtrlIdx j ≠ 0x15#5 ∧ pulseSweepIdx j ≠ 0x15#5 := by cases j <;> decide
    rw [pulseCoherent_iff, stored_same hst, stored_other hst hctrl, stored_other hst hswp]
    have hp : (writeEnables d s).pulse j = { s.pulse j with enabled := fEnablePulse j d } := by cases j <;> rfl
    rw [hp]
    exact pulse_enable_agrees hs d
  all_goals exact kept (by cases j <;> decide) (by cases j <;> rfl)

/-- The triangle under a WRITE: the actions of $4008, $400A, $400B and $4015 make it agree with the new byte. -/
theorem exec_writeAt_triCoherent (hs : s.TriCoherent) (h : exec (writeAt a d) s = .next t) : t.TriCoherent := by
  have hst : Stored s a d t := exec_writeAt_getReg h
  revert hst
  have kept : ∀ {a t}, TriOther a → t.tri = s.tri → Stored s a d t → t.TriCoherent :=
    fun ha ht hst => triCoherent_kept hs hst ha ht
  refine exec_writeAt_actions (motive := fun a t => Stored s a d t → t.TriCoherent)
    (fun k => kept (by cases k <;> decide) (by cases k <;> rfl)) (fun k => kept (by cases k <;> decide) (by cases k <;> rfl))
    (fun k => kept (by cases k <;> decide) (by cases k <;> rfl)) (fun k => kept (by cases k <;> decide) (by cases k <;> rfl))
    (fun hst => ?control) (fun hst => ?low) (fun hst => ?high) (kept (by decide) rfl) (kept (by decide) rfl)
    (kept (by decide) rfl) (fun hst => ?enables) (fun a ha => kept (storedOnly_triOther a ha) rfl) h
  all_goals rw [triCoherent_iff, stored_same hst]
  case control =>
    rw [stored_other hst (by decide), stored_other hst (by decide), stored_other hst (by decide)]
    exact tri_control_agrees hs d
  case low =>
    rw [stored_other hst (by decide), stored_other hst (by decide), stored_other hst (by decide), writeTriLow,
      triPeriod_setReg_low]
    exact tri_loadPeriod_agrees hs d _
  case high =>
    rw [stored_other hst (by decide), stored_other hst (by decide), stored_other hst (by decide), writeTriHigh,
      triPeriod_setReg_high, State.getReg_setReg_other _ _ _ _ (by decide)]
    exact tri_loadLength_agrees (tri_loadPeriod_agrees hs _ d) d
  case enables =>
    rw [stored_other hst (by decide), stored_other hst (by decide), stored_other hst (by decide)]
    exact tri_enable_agrees hs d

/-- The noise channel under a WRITE: the actions of $400C, $400E and $4015 make it agree with the new byte. -/
theorem exec_writeAt_noiseCoherent (hs : s.NoiseCoherent) (h : exec (writeAt a d) s = .next t) : t.NoiseCoherent := by
  have hst : Stored s a d t := exec_writeAt_getReg h
  revert hst
  have kept : ∀ {a t}, NoiseOther a → t.noise = s.noise → Stored s a d t → t.NoiseCoherent :=
    fun ha hn hst => noiseCoherent_kept hs hst ha hn
  refine exec_writeAt_actions (motive := fun a t => Stored s a d t → t.NoiseCoherent)
    (fun k => kept (by cases k <;> decide) (by cases k <;> rfl)) (fun k => kept (by cases k <;> decide) (by cases k <;> rfl))
    (fun k => kept (by cases k <;> decide) (by cases k <;> rfl)) (fun k => kept (by cases k <;> decide) (by cases k <;> rfl))
    (kept (by decide) rfl) (kept (by decide) rfl) (kept (by decide) rfl) (fun hst => ?control) (fun hst => ?period)
    (fun hst => ?length) (fun hst => ?enables) (fun a ha => kept (storedOnly_noiseOther a ha) rfl) h
  case control =>
    rw [noiseCoherent_iff, stored_same hst, stored_other hst (by decide), stored_other hst (by decide)]
    exact noise_control_agrees hs d
  case period =>
    rw [noiseCoherent_iff, stored_same hst, stored_other hst (by decide), stored_other hst (by decide)]
    exact noise_periodWrite_agrees hs d
  case length =>
    rw [noiseCoherent_iff, stored_other hst (by decide), stored_other hst (by decide), stored_other hst (by decide)]
    exact noise_loadLength_agrees hs d
  case enables =>
    rw [noiseCoherent_iff, stored_same hst, stored_other hst (by decide), stored_other hst (by decide)]
    exact noise_enable_agrees hs d

theorem exec_writeAt_coherent (hs : s.Coherent) (h : exec (writeAt a d) s = .next t) : t.Coherent := by
  obtain ⟨h0, h1, htri, hnoise⟩ := hs
  exact ⟨exec_writeAt_pulseCoherent h0 h, exec_writeAt_pulseCoherent h1 h, exec_writeAt_triCoherent htri h,
    exec_writeAt_noiseCoherent hnoise h⟩

end Writes

/-! ### Ticks and steps -/

/-- The frame events and the clocks of a tick keep every channel coherent: none of them writes a register. -/
theorem ticked_coherent {s : State} (h : s.Coherent) : s.ticked.Coherent := by
  refine ticked_of_parts (motive := State.Coherent) (fun u hu => ?_) (fun u hu => ?_) (fun u hu => ?_) h <;>
    obtain ⟨h0, h1, htri, hnoise⟩ := hu
  · exact ⟨pulse_quarter_agrees h0, pulse_quarter_agrees h1, tri_quarter_agrees htri, noise_quarter_agrees hnoise⟩
  · exact ⟨pulse_half_agrees h0, pulse_half_agrees h1, tri_half_agrees htri, noise_half_agrees hnoise⟩
  · exact ⟨pulse_clock_agrees h0, pulse_clock_agrees h1, tri_clock_agrees htri, noise_clock_agrees hnoise⟩

/-- Coherence is a matter of the register file and the four channels. -/
theorem coherent_congr {s t : State} (h : s.Coherent) (hreg : t.reg = s.reg) (h0 : t.p0 = s.p0) (h1 : t.p1 = s.p1)
    (htri : t.tri = s.tri) (hnoise : t.noise = s.noise) : t.Coherent := by
  obtain ⟨c0, c1, ctri, cnoise⟩ := h
  refine ⟨?_, ?_, ?_, ?_⟩
  · rw [pulseCoherent_iff, State.pulse_p0] at c0 ⊢
    simpa only [State.getReg_congr hreg, h0] using c0
  · rw [pulseCoherent_iff, State.pulse_p1] at c1 ⊢
    simpa only [State.getReg_congr hreg, h1] using c1
  · rw [triCoherent_iff] at ctri ⊢
    simpa only [State.getReg_congr hreg, htri] using ctri
  · rw [noiseCoherent_iff] at cnoise ⊢
    simpa only [State.getReg_congr hreg, hnoise] using cnoise

/-- The frame events and the clocks write no register. -/
theorem ticked_reg (s : State) : s.ticked.reg = s.reg := by
  rw [State.ticked, State.clockChannels_reg, State.frameEvents_reg]

theorem tickBody_coherent {s : State} (h : s.Coherent) : s.tickBody.Coherent :=
  coherent_congr (ticked_coherent h) (by rw [State.tickBody_reg, ticked_reg]) s.tickBody_p0 s.tickBody_p1 s.tickBody_tri
    s.tickBody_noise

/-- Every command keeps the channels coherent, by its format: READ, POP and SETGAIN touch neither a register nor a channel. -/
theorem exec_coherent {i : Instr} {s t : State} (hs : s.Coherent) (h : exec i s = .next t) : t.Coherent := by
  induction i using instr_formats with
  | write a d => exact exec_writeAt_coherent hs h
  | writeFlag a b v => exact exec_writeAt_coherent hs (by rwa [exec_writeFlag_eq] at h)
  | read a =>
    cases h
    exact hs
  | tick =>
    rcases exec_tick_cases h with ⟨-, rfl⟩ | ⟨-, rfl⟩
    · exact hs
    · exact tickBody_coherent hs
  | pop => rcases exec_pop_cases h with ⟨-, rfl⟩ | ⟨-, rfl⟩ <;> exact hs
  | setGain g => rcases exec_setGain_cases h with ⟨-, rfl⟩ | ⟨-, rfl⟩ <;> exact hs

/-- Settles O52, by what a step can do: a command, or at most a change of the marks and the stream. -/
theorem everyStepKeepsChannelsCoherent : Obligations.EveryStepKeepsChannelsCoherent := by
  intro s t hs h
  have htake : s.takeCommand.Coherent := hs
  rcases step_cases s with ⟨-, hstep⟩ | ⟨c, rest, -, hstep⟩
  · rw [hstep] at h
    cases h
    exact hs
  rcases hstep with ⟨-, hstep⟩ | ⟨-, -, hstep⟩ | ⟨-, -, -, -, hstep⟩ | ⟨-, -, i, -, hstep⟩ <;> rw [hstep] at h
  · cases h
  · cases h
    exact hs
  · cases h
    exact htake
  · exact exec_coherent htake h

end Sys2Proof.Proofs.Coherence

/-! PROOFS. The ring buffer as a queue of samples: what a push appends, what a removal takes, and that nothing else changes the history
of samples (44_chip_core.md section 3, 45_ring_buffer.md; R119 to R128). -/

namespace Sys2Proof.Proofs.History

open Sys2Proof Sys2Proof.Machine
open Sys2Proof.Proofs.Encoding (instr_formats append_toNat writeAt_ne_of_op)
open Sys2Proof.Proofs.Memory (fifoOffset_succ_ne readByte_mod push_readByte_low push_readByte_high)
open Sys2Proof.Proofs.Writes (exec_writeAt_frame exec_writeFlag_eq)
open Sys2Proof.Proofs.Steps
open Sys2Proof.Proofs.Invariant (wHead_eq exec_inv everyStepKeepsTheInvariant)

/-! ### The samples of the ring buffer -/

/-- A byte is read at its offset mod `FIFO_CAPACITY`, however far past the end its number is (R8). -/
theorem readByte_congr (f : Fifo) {a b : Nat} (h : a % 192000 = b % 192000) : f.readByte a = f.readByte b := by
  rw [← readByte_mod f a, h, readByte_mod f b]

/-- The `n` oldest samples by their bytes, counted on from the read head (R125). -/
theorem oldest_eq (f : Fifo) (n : Nat) : f.oldest n =
    (List.range n).map fun i => f.readByte (f.rHead + 2 * i + 1) ++ f.readByte (f.rHead + 2 * i) := by
  refine List.map_congr_left fun i _ => ?_
  have hnext : f.readByte ((f.rHead + 2 * i) % 192000 + 1) = f.readByte (f.rHead + 2 * i + 1) :=
    readByte_congr f (by omega)
  rw [Fifo.readSample_eq, fifoCapacity_val, readByte_mod, hnext]

/-- The oldest samples are the first ones, and then the oldest of what is left when those are removed (R125). -/
theorem oldest_add (f : Fifo) (m n : Nat) : f.oldest (m + n) = f.oldest m ++ (f.drop m).oldest n := by
  simp only [oldest_eq, List.range_add, List.map_append, List.map_map, List.append_cancel_left_eq]
  refine List.map_congr_left fun i _ => ?_
  have hlow : (f.drop m).readByte ((f.drop m).rHead + 2 * i) = f.readByte (f.rHead + 2 * (m + i)) :=
    readByte_congr f (by simp only [Fifo.drop, fifoCapacity_val]; omega)
  have hhigh : (f.drop m).readByte ((f.drop m).rHead + 2 * i + 1) = f.readByte (f.rHead + 2 * (m + i) + 1) :=
    readByte_congr f (by simp only [Fifo.drop, fifoCapacity_val]; omega)
  rw [hlow, hhigh, Function.comp_apply]

/-- A sample is its high byte before its low byte (R36). -/
theorem sample_bytes (x : Sample) : x.extractLsb' 8 8 ++ x.extractLsb' 0 8 = x := by
  apply BitVec.eq_of_toNat_eq
  have h := x.isLt
  rw [append_toNat, BitVec.extractLsb'_toNat, BitVec.extractLsb'_toNat, Nat.shiftRight_eq_div_pow]
  omega

/-- A push appends its sample after the samples that were buffered, and changes none of them (R123). -/
theorem oldest_push {f : Fifo} (hwf : f.Wf) (hcells : cellsWf f.buf) {n : Nat} (hn : f.fill = 2 * n)
    (hroom : f.fill ≤ 192000 - 2) (x : Sample) : (f.push x).oldest (n + 1) = f.oldest n ++ [x] := by
  have hw := wHead_eq hwf
  have hold : ∀ a, a < 2 * n → (f.push x).readByte (f.rHead + a) = f.readByte (f.rHead + a) := fun a ha => by
    rw [Fifo.push_readByte f hcells, if_neg, if_neg] <;> simp only [fifoOffset, fifoCapacity_val] <;> omega
  have hlow : (f.push x).readByte (f.rHead + 2 * n) = x.extractLsb' 0 8 := by
    rw [← push_readByte_low f hcells x]
    exact readByte_congr _ (by omega)
  have hhigh : (f.push x).readByte (f.rHead + 2 * n + 1) = x.extractLsb' 8 8 := by
    rw [← push_readByte_high f hcells x]
    exact readByte_congr _ (by omega)
  rw [oldest_eq, oldest_eq, List.range_succ, List.map_append, List.map_singleton, Fifo.push_rHead, hlow, hhigh, sample_bytes]
  refine congrArg (· ++ [x]) (List.map_congr_left fun i hi => ?_)
  have hi : i < n := List.mem_range.1 hi
  rw [hold (2 * i) (by omega), Nat.add_assoc, hold (2 * i + 1) (by omega)]

/-! ### The bytes of a due tick, and POP -/

/-- Settles O30: the body of the tick pushes the sample of the clocked channels, and a push changes the two bytes at the head only. -/
theorem dueTickStoresOneSample : Obligations.DueTickStoresOneSample := by
  intro s hcells hdue hroom
  refine ⟨s.tickBody, exec_tick_of_room (.inr hroom), fun a ha => ?_⟩
  have hne := fifoOffset_succ_ne s.fifo.wHead
  rw [State.tickBody_fifo, if_pos hdue, Fifo.push_readByte _ hcells, fifoOffset_of_lt ha, State.tickBody_p0,
    State.tickBody_p1, State.tickBody_tri, State.tickBody_noise]
  by_cases hlow : a = fifoOffset s.fifo.wHead
  · rw [if_neg (fun hhigh => hne (hhigh.symm.trans hlow)), if_pos hlow]
    exact (if_pos hlow).symm
  · rw [if_neg hlow]
    exact (if_neg hlow).symm

/-- Settles O34: the removed samples by their bytes, and the heads moved. -/
theorem popRemovesTheOldestChunk : Obligations.PopRemovesTheOldestChunk := by
  intro s hfull
  rw [exec_pop, popChunk_of_full _ _ hfull, oldest_eq]
  rfl

/-- A tick that runs moves the accumulator. -/
theorem tickBody_acc_ne (s : State) : s.tickBody.acc ≠ s.acc := by
  rw [State.tickBody_acc]
  split_ifs <;> omega

/-- Settles O35: a TICK that changes nothing holds, so the buffer, filled by whole samples, is full; and a full buffer has a chunk. -/
theorem coreAndConsumerNeverBothHold : Obligations.CoreAndConsumerNeverBothHold := by
  rintro s ⟨⟨-, -, -, -, -, -, -, -, -, hle, -⟩, -, -, hfill, -⟩
  refine or_iff_not_imp_left.2 fun htick hpop => ?_
  have hholds : s.tickHolds = true := by
    rcases exec_tick_cases (not_not.1 htick) with ⟨hholds, -⟩ | ⟨-, e⟩
    · exact hholds
    · exact absurd (congrArg State.acc e).symm (tickBody_acc_ne s)
  obtain ⟨-, hfull⟩ := s.tickHolds_iff.1 hholds
  have hle' : s.fifo.fill ≤ 192000 := hle
  have hpos := chunkSamples_pos
  have hcap := chunkSamples_le
  rcases exec_pop_cases hpop with ⟨hshort, -⟩ | ⟨-, e⟩
  · omega
  · have hfill' : s.fifo.fill = s.fifo.fill - 2 * Config.chunkSamples := congrArg (fun u => u.fifo.fill) e
    omega

/-! ### The history of samples, command by command (R128) -/

/-- The history is a matter of the ring buffer and the chunks. -/
theorem sampleHistory_congr {s t : State} (hfifo : t.fifo = s.fifo) (hchunks : t.chunks = s.chunks) :
    t.sampleHistory = s.sampleHistory := by
  rw [State.sampleHistory, State.sampleHistory, State.buffered, State.buffered, hfifo, hchunks]

/-- A push adds its sample to the history. -/
theorem sampleHistory_push {s t : State} (hs : s.Inv) (hroom : s.fifo.fill ≤ 192000 - 2) {x : Sample}
    (hfifo : t.fifo = s.fifo.push x) (hchunks : t.chunks = s.chunks) : t.sampleHistory = s.sampleHistory ++ [x] := by
  obtain ⟨⟨-, -, -, -, -, -, -, hwf⟩, -, -, hfill, -, hcells, -⟩ := hs
  have hhalf : (s.fifo.fill + 2) / 2 = s.fifo.fill / 2 + 1 := by omega
  rw [State.sampleHistory, State.sampleHistory, State.buffered, State.buffered, hchunks, hfifo, Fifo.push_fill, hhalf,
    oldest_push hwf hcells (by omega) hroom, List.append_assoc]

/-- The removal of a chunk only moves its samples from the buffered ones to the returned ones. -/
theorem sampleHistory_pop {s t : State} {n : Nat} (hfull : 2 * n ≤ s.fifo.fill) (hfifo : t.fifo = s.fifo.drop n)
    (hchunks : t.chunks = s.chunks ++ [s.fifo.oldest n]) : t.sampleHistory = s.sampleHistory := by
  have hrest : s.fifo.fill / 2 = n + (s.fifo.fill - 2 * n) / 2 := by omega
  have hfill : (s.fifo.drop n).fill = s.fifo.fill - 2 * n := rfl
  rw [State.sampleHistory, State.sampleHistory, State.buffered, State.buffered, hchunks, hfifo, hfill, hrest, oldest_add]
  simp

/-- The history after the body of a tick whose sample is due and has room. -/
theorem sampleHistory_tick_due {s : State} (hs : s.Inv) (hdue : 1789773 ≤ s.acc + 96000)
    (hroom : s.fifo.fill ≤ 192000 - 2) : s.tickBody.sampleHistory = s.sampleHistory ++
      [mixSample s.ticked.p0.get s.ticked.p1.get s.ticked.tri.get s.ticked.noise.get s.gain] :=
  sampleHistory_push hs hroom (by rw [State.tickBody_fifo, if_pos hdue]) s.tickBody_chunks

/-- The history after a tick that has no sample due or no room for it. -/
theorem sampleHistory_tick_idle {s t : State} (h : exec .tick s = .next t)
    (hidle : s.acc + 96000 < 1789773 ∨ 192000 - 2 < s.fifo.fill) : t.sampleHistory = s.sampleHistory := by
  rcases exec_tick_cases h with ⟨-, rfl⟩ | ⟨hholds, rfl⟩
  · rfl
  · have hroom := room_of_runs hholds
    have hnot : ¬ 1789773 ≤ s.acc + 96000 := by omega
    exact sampleHistory_congr (by rw [State.tickBody_fifo, if_neg hnot]) s.tickBody_chunks

/-- No command but TICK changes the history: POP moves samples within it, the others touch neither buffer nor chunks. -/
theorem sampleHistory_other {i : Instr} {s t : State} (h : exec i s = .next t) (hi : i ≠ .tick) :
    t.sampleHistory = s.sampleHistory := by
  have hwrite : ∀ {a d}, exec (writeAt a d) s = .next t → t.sampleHistory = s.sampleHistory := fun hw => by
    obtain ⟨-, -, -, hfifo, -, -, -, hchunks⟩ := exec_writeAt_frame hw
    exact sampleHistory_congr hfifo hchunks
  induction i using instr_formats with
  | write a d => exact hwrite h
  | writeFlag a b v => exact hwrite (by rwa [exec_writeFlag_eq] at h)
  | read a =>
    cases h
    exact sampleHistory_congr rfl rfl
  | tick => exact absurd rfl hi
  | pop =>
    rcases exec_pop_cases h with ⟨-, rfl⟩ | ⟨hfull, rfl⟩
    · rfl
    · exact sampleHistory_pop hfull rfl rfl
  | setGain g => rcases exec_setGain_cases h with ⟨-, rfl⟩ | ⟨-, rfl⟩ <;> exact sampleHistory_congr rfl rfl

/-- Settles O54: a due tick with room pushes, a tick without either pushes nothing, and no other command changes the history. -/
theorem sampleHistoryGrowsOnlyByDueTicks : Obligations.SampleHistoryGrowsOnlyByDueTicks := by
  refine fun i s t hs h => ⟨?_, fun hno => ?_⟩
  · rintro rfl hdue hroom
    rw [exec_tick_of_room (.inr hroom)] at h
    obtain rfl := Host.Outcome.next.inj h
    rw [State.tickBody_p0, State.tickBody_p1, State.tickBody_tri, State.tickBody_noise]
    exact sampleHistory_tick_due hs hdue hroom
  · by_cases hi : i = .tick
    · subst hi
      exact sampleHistory_tick_idle h (hno.resolve_left fun hne => hne rfl)
    · exact sampleHistory_other h hi

/-! ### The history along a run -/

/-- A command only adds chunks. -/
theorem exec_chunks_grow {i : Instr} {s t : State} (h : exec i s = .next t) : s.chunks <+: t.chunks := by
  obtain ⟨-, -, -, hpop, -⟩ := onlyTheNamedCommandsChangeSharedState i s t h
  by_cases hsame : t.chunks = s.chunks
  · rw [hsame]
  · obtain rfl := hpop (.inr hsame)
    rcases exec_pop_cases h with ⟨-, rfl⟩ | ⟨-, rfl⟩
    · exact List.prefix_rfl
    · exact List.prefix_append _ _

/-- A command only adds to the history. -/
theorem exec_history_grows {i : Instr} {s t : State} (hs : s.Inv) (h : exec i s = .next t) :
    s.sampleHistory <+: t.sampleHistory := by
  obtain ⟨hpush, hsame⟩ := sampleHistoryGrowsOnlyByDueTicks i s t hs h
  by_cases hdue : i = .tick ∧ 1789773 ≤ s.acc + 96000 ∧ s.fifo.fill ≤ 192000 - 2
  · obtain ⟨hi, hacc, hroom⟩ := hdue
    rw [hpush hi hacc hroom]
    exact List.prefix_append _ _
  · rw [not_and_or, not_and_or, Nat.not_le, Nat.not_le] at hdue
    rw [hsame hdue]

/-- A step only adds to the chunks and to the history. -/
theorem step_history_grows {s t : State} (hs : s.Inv) (h : step s = .next t) :
    s.chunks <+: t.chunks ∧ s.sampleHistory <+: t.sampleHistory := by
  have htake : s.takeCommand.Inv := hs
  have hsame : s.takeCommand.sampleHistory = s.sampleHistory := sampleHistory_congr rfl rfl
  rcases step_cases s with ⟨-, hstep⟩ | ⟨c, rest, -, hstep⟩
  · rw [hstep] at h
    cases h
    exact ⟨List.prefix_rfl, List.prefix_rfl⟩
  rcases hstep with ⟨-, hstep⟩ | ⟨-, -, hstep⟩ | ⟨-, -, -, -, hstep⟩ | ⟨-, -, i, -, hstep⟩ <;> rw [hstep] at h
  · cases h
  · cases h
    exact ⟨List.prefix_rfl, List.prefix_rfl⟩
  · cases h
    exact ⟨List.prefix_rfl, List.prefix_rfl⟩
  · have hchunks : s.takeCommand.chunks <+: t.chunks := exec_chunks_grow h
    exact ⟨hchunks, hsame ▸ exec_history_grows htake h⟩

/-- A run of `n + 1` steps is one step and then a run of `n`. -/
theorem run_succ_of_next {M : Host.Core} {s u : M.State} (n : Nat) (h : M.step s = .next u) :
    M.run (n + 1) s = M.run n u := by
  rw [Host.Core.run, h]

/-- A run that answers a state has its first step answer one. -/
theorem run_succ_cases {M : Host.Core} {s t : M.State} {n : Nat} (h : M.run (n + 1) s = .next t) :
    ∃ u, M.step s = .next u ∧ M.run n u = .next t := by
  cases hstep : M.step s with
  | next u => exact ⟨u, rfl, by rwa [run_succ_of_next n hstep] at h⟩
  | fault r =>
    rw [Host.Core.run, hstep] at h
    cases h
  | refused r =>
    rw [Host.Core.run, hstep] at h
    cases h

/-- What a step that starts in the invariant does to the chunks and the history, a run of any length does. -/
theorem run_history_grows {n : Nat} {s t : State} (hs : s.Inv) (h : Sys2Proof.core.run n s = .next t) :
    s.chunks <+: t.chunks ∧ s.sampleHistory <+: t.sampleHistory := by
  induction n generalizing s with
  | zero =>
    cases h
    exact ⟨List.prefix_rfl, List.prefix_rfl⟩
  | succ n ih =>
    obtain ⟨(u : State), hstep, hrun⟩ := run_succ_cases h
    obtain ⟨hchunks, hhist⟩ := step_history_grows hs hstep
    obtain ⟨hchunks', hhist'⟩ := ih (everyStepKeepsTheInvariant s u hs hstep) hrun
    exact ⟨hchunks.trans hchunks', hhist.trans hhist'⟩

/-- Settles O55, by induction on the steps: the invariant carries the growth of one step along the run. -/
theorem poppedSamplesAreAPrefixOfPushedSamples : Obligations.PoppedSamplesAreAPrefixOfPushedSamples := by
  intro n s t hs h
  obtain ⟨hchunks, hhist⟩ := run_history_grows hs h
  exact ⟨hchunks, hhist, List.prefix_append _ _⟩

end Sys2Proof.Proofs.History

/-! PROOFS. The primitives over many clocks and the channels over one: the looping divider, the envelope's decay, the counters, the
channel clocks, the sweep and the triangle's output (40_primitives.md sections 1 to 4, 41_pulse.md, 42_triangle.md and 43_noise.md
section 2; R63 to R75, R87 to R89, R95 to R98, R102 to R104). -/

namespace Sys2Proof.Proofs.Clocks

open Sys2Proof Sys2Proof.Machine Function
open Sys2Proof.Proofs.Primitives (dividerClockFiresOrCountsDown)
open Sys2Proof.Proofs.Pulse (exhausted_iff table_index)

/-! ### One clock of a looping divider, a counter and an envelope -/

/-- A looping divider at count 0 fires and reloads (R63). -/
theorem divider_fires {d : Divider} (hloop : d.loop = true) (hcount : d.count = 0) :
    d.clock = (⟨d.period, d.period, true⟩, true) := by
  obtain ⟨hfires, -, -⟩ := dividerClockFiresOrCountsDown d
  exact hfires hcount hloop

/-- A looping divider at another count goes one down (R63). -/
theorem divider_counts {d : Divider} (hloop : d.loop = true) (hcount : d.count ≠ 0) :
    d.clock = (⟨d.period, d.count - 1, true⟩, false) := by
  obtain ⟨-, -, hcounts⟩ := dividerClockFiresOrCountsDown d
  rw [← hloop]
  exact hcounts hcount

/-- A counter that is not halted and does not reload goes one down, and answers whether that was from 1 to 0 (R66). -/
theorem lengthCounter_counts {c : LengthCounter} (hloop : c.div.loop = false) (hhalt : c.halt = false) :
    c.clock = (⟨⟨c.div.period, c.div.count - 1, false⟩, false⟩, decide (c.div.count = 1)) := by
  obtain ⟨⟨period, count, loop⟩, halt⟩ := c
  obtain rfl : loop = false := hloop
  obtain rfl : halt = false := hhalt
  cases count with
  | zero => rfl
  | succ n => rfl

/-- A halted counter answers false and stays (R66). -/
theorem lengthCounter_halted {c : LengthCounter} (hhalt : c.halt = true) : c.clock = (c, false) := by
  rw [LengthCounter.clock, if_pos hhalt]

/-- A counter that does not reload, after its clock: only the count moves, and only if it is not halted (R66). -/
theorem lengthCounter_clock_eq {c : LengthCounter} (hloop : c.div.loop = false) :
    c.clock.1 = { c with div := { c.div with count := if c.halt then c.div.count else c.div.count - 1 } } := by
  obtain ⟨⟨period, count, loop⟩, halt⟩ := c
  obtain rfl : loop = false := hloop
  cases halt with
  | true => rw [lengthCounter_halted rfl]; rfl
  | false => rw [lengthCounter_counts rfl rfl]; rfl

/-- The envelope clock that is not the first after a load, while its divider counts (R71). -/
theorem envelope_counts {e : Envelope} (hloop : e.div.loop = true) (hstart : e.start = false) (hcount : e.div.count ≠ 0) :
    e.clock = { e with div := ⟨e.div.period, e.div.count - 1, true⟩ } := by
  rw [Envelope.clock_running e hstart, divider_counts hloop hcount, if_neg hcount]

/-- The envelope clock that is not the first after a load, when its divider fires (R71). -/
theorem envelope_fires {e : Envelope} (hloop : e.div.loop = true) (hstart : e.start = false) (hcount : e.div.count = 0) :
    e.clock = { e with div := ⟨e.div.period, e.div.period, true⟩, decay := e.decayed } := by
  rw [Envelope.clock_running e hstart, divider_fires hloop hcount, if_pos hcount]

/-! ### Many clocks of a looping divider -/

/-- The place in a period of `p + 1` clocks, one clock later. -/
theorem succ_mod_period (n p : Nat) : (n + 1) % (p + 1) = if n % (p + 1) = p then 0 else n % (p + 1) + 1 := by
  have hlt : n % (p + 1) < p + 1 := Nat.mod_lt n (Nat.succ_pos p)
  split_ifs with h
  · exact Nat.succ_mod_succ_eq_zero_iff.2 h
  · rw [Nat.add_mod, Nat.add_mod_mod, Nat.mod_eq_of_lt (by omega)]

/-- The number of whole periods of `p + 1` clocks, one clock later. -/
theorem succ_div_period (n p : Nat) : (n + 1) / (p + 1) = n / (p + 1) + if n % (p + 1) = p then 1 else 0 := by
  simp only [Nat.succ_div, Nat.dvd_iff_mod_eq_zero, Nat.succ_mod_succ_eq_zero_iff]

/-- A looping divider that has gone `n` clocks since it was loaded with `p`. -/
def dividerAfter (p n : Nat) : Divider := ⟨p, p - n % (p + 1), true⟩

theorem dividerAfter_count_eq_zero_iff (p n : Nat) : (dividerAfter p n).count = 0 ↔ n % (p + 1) = p := by
  have hlt : n % (p + 1) < p + 1 := Nat.mod_lt n (Nat.succ_pos p)
  show p - n % (p + 1) = 0 ↔ _
  omega

theorem dividerAfter_clock (p n : Nat) : (dividerAfter p n).clock.1 = dividerAfter p (n + 1) := by
  by_cases h : n % (p + 1) = p
  · rw [divider_fires rfl ((dividerAfter_count_eq_zero_iff p n).2 h), dividerAfter, dividerAfter, succ_mod_period, if_pos h,
      Nat.sub_zero]
  · rw [divider_counts rfl ((dividerAfter_count_eq_zero_iff p n).not.2 h), dividerAfter, dividerAfter, succ_mod_period,
      if_neg h, Nat.sub_sub]

theorem iterate_clock_load {d : Divider} (hloop : d.loop = true) (p n : Nat) :
    (fun x : Divider => x.clock.1)^[n] (d.load p) = dividerAfter p n := by
  induction n with
  | zero => rw [iterate_zero_apply, Divider.load, hloop, dividerAfter, Nat.zero_mod, Nat.sub_zero]
  | succ n ih => rw [iterate_succ_apply', ih, dividerAfter_clock]

/-- Settles O37: a divider fires at count 0, and a loaded one is there at the end of each period. -/
theorem loadedDividerFiresEveryPeriodPlusOne : Obligations.LoadedDividerFiresEveryPeriodPlusOne := by
  intro d p n hloop
  rw [iterate_clock_load hloop, Divider.clock_fired, beq_iff_eq, dividerAfter_count_eq_zero_iff,
    Nat.succ_mod_succ_eq_zero_iff]

/-! ### Many clocks of an envelope -/

/-- The decay level after `k` fires of the envelope divider: to 0 and there it stays, or around through 15 (C11). -/
def decayLevel (loop : Bool) (k : Nat) : Nat := if loop then 15 - k % 16 else 15 - k

theorem decayLevel_lt (loop : Bool) (k : Nat) : decayLevel loop k < 2 ^ 4 := by
  rw [decayLevel]
  split <;> omega

/-- The level one fire later: one down, and from 0 back to 15 when looping. -/
theorem decayLevel_succ (loop : Bool) (k : Nat) : decayLevel loop (k + 1) =
    if decayLevel loop k = 0 then (if loop then 15 else 0) else decayLevel loop k - 1 := by
  cases loop <;> simp only [decayLevel, Bool.false_eq_true, if_false, if_true] <;> split_ifs <;> omega

/-- A fire takes an envelope's level one place on (R71). -/
theorem decayed_decayLevel {e : Envelope} {k : Nat} (h : e.decay = BitVec.ofNat 4 (decayLevel e.loop k)) :
    e.decayed = BitVec.ofNat 4 (decayLevel e.loop (k + 1)) := by
  have hlt := decayLevel_lt e.loop k
  have hnat : e.decay.toNat = decayLevel e.loop k := by rw [h, BitVec.toNat_ofNat, Nat.mod_eq_of_lt hlt]
  have hzero : e.decay = 0#4 ↔ decayLevel e.loop k = 0 := by
    rw [← hnat, ← BitVec.toNat_inj]
    rfl
  rw [Envelope.decayed, decayLevel_succ]
  by_cases h0 : decayLevel e.loop k = 0
  · rw [if_neg (not_not.2 (hzero.2 h0)), if_pos h0, hzero.2 h0]
    cases e.loop <;> rfl
  · rw [if_pos (hzero.not.2 h0), if_neg h0]
    apply BitVec.eq_of_toNat_eq
    rw [BitVec.toNat_sub, hnat, BitVec.toNat_ofNat, BitVec.toNat_ofNat]
    omega

/-- An envelope `n` clocks after its load with volume `v` and its start clock. -/
def envelopeAfter (v : BitVec 4) (c l : Bool) (n : Nat) : Envelope :=
  ⟨dividerAfter v.toNat n, false, c, l, v, BitVec.ofNat 4 (decayLevel l (n / (v.toNat + 1)))⟩

/-- The first clock after a load starts the decay (R71). -/
theorem clock_load_eq {e : Envelope} (hloop : e.div.loop = true) (v : BitVec 4) (c l : Bool) :
    (e.load v c l).clock = envelopeAfter v c l 0 := by
  rw [Envelope.clock_started _ rfl, envelopeAfter, dividerAfter, Nat.zero_div, Nat.zero_mod, Nat.sub_zero, ← hloop]
  cases l <;> rfl

theorem envelopeAfter_clock (v : BitVec 4) (c l : Bool) (n : Nat) :
    (envelopeAfter v c l n).clock = envelopeAfter v c l (n + 1) := by
  have hdiv := dividerAfter_clock v.toNat n
  rw [Envelope.clock_running _ rfl]
  simp only [envelopeAfter, succ_div_period, hdiv, dividerAfter_count_eq_zero_iff]
  split_ifs
  · rw [decayed_decayLevel rfl]
  · rfl

/-- Settles O38, by induction on the clocks: the divider and the level are where `envelopeAfter` says. -/
theorem envelopeDecaysOncePerPeriod : Obligations.EnvelopeDecaysOncePerPeriod := by
  intro e v c n hloop
  have hafter : ∀ l, Envelope.clock^[n] (e.load v c l).clock = envelopeAfter v c l n := fun l => by
    induction n with
    | zero => exact clock_load_eq hloop v c l
    | succ n ih => rw [iterate_succ_apply', ih, envelopeAfter_clock]
  have hlevel : ∀ l, (envelopeAfter v c l n).decay.toNat = decayLevel l (n / (v.toNat + 1)) := fun l => by
    rw [envelopeAfter, BitVec.toNat_ofNat, Nat.mod_eq_of_lt (decayLevel_lt _ _)]
  rw [hafter, hafter, hlevel, hlevel]
  exact ⟨rfl, rfl⟩

/-! ### The channel clocks -/

theorem pulse_clock_fires {p : Pulse} (hloop : p.timer.loop = true) (hcount : p.timer.count = 0) : p.clock = { p with
    timer := ⟨p.timer.period, p.timer.period, true⟩
    seq := ⟨(p.seq.index + 1) % 8⟩ } := by
  rw [Pulse.clock, divider_fires hloop hcount, if_pos rfl]
  rfl

theorem pulse_clock_counts {p : Pulse} (hloop : p.timer.loop = true) (hcount : p.timer.count ≠ 0) :
    p.clock = { p with timer := ⟨p.timer.period, p.timer.count - 1, true⟩ } := by
  rw [Pulse.clock, divider_counts hloop hcount, if_neg Bool.false_ne_true]

theorem tri_clockOnce_fires {t : Triangle} (hloop : t.timer.loop = true) (hcount : t.timer.count = 0) :
    t.clockOnce = { t with
      timer := ⟨t.timer.period, t.timer.period, true⟩
      seq := ⟨(t.seq.index + 1) % 32⟩ } := by
  rw [Triangle.clockOnce, divider_fires hloop hcount, if_pos rfl]
  rfl

theorem tri_clockOnce_counts {t : Triangle} (hloop : t.timer.loop = true) (hcount : t.timer.count ≠ 0) :
    t.clockOnce = { t with timer := ⟨t.timer.period, t.timer.count - 1, true⟩ } := by
  rw [Triangle.clockOnce, divider_counts hloop hcount, if_neg Bool.false_ne_true]

/-- The triangle's two timer clocks of one tick, with period 0: both fire. -/
theorem tri_clock_fires_twice {t : Triangle} (hloop : t.timer.loop = true) (hcount : t.timer.count = 0)
    (hperiod : t.timer.period = 0) : t.clock = { t with
      timer := ⟨0, 0, true⟩
      seq := ⟨(t.seq.index + 2) % 32⟩ } := by
  rw [Triangle.clock, tri_clockOnce_fires hloop hcount, tri_clockOnce_fires rfl hperiod]
  simp only [hperiod, Nat.mod_add_mod]

/-- The first of the two clocks fires, the second counts. -/
theorem tri_clock_fires_first {t : Triangle} (hloop : t.timer.loop = true) (hcount : t.timer.count = 0)
    (hperiod : t.timer.period ≠ 0) : t.clock = { t with
      timer := ⟨t.timer.period, t.timer.period - 1, true⟩
      seq := ⟨(t.seq.index + 1) % 32⟩ } := by
  rw [Triangle.clock, tri_clockOnce_fires hloop hcount, tri_clockOnce_counts rfl hperiod]

/-- The first of the two clocks counts, the second fires. -/
theorem tri_clock_fires_second {t : Triangle} (hloop : t.timer.loop = true) (hcount : t.timer.count = 1) :
    t.clock = { t with
      timer := ⟨t.timer.period, t.timer.period, true⟩
      seq := ⟨(t.seq.index + 1) % 32⟩ } := by
  have hzero : t.timer.count - 1 = 0 := by omega
  rw [Triangle.clock, tri_clockOnce_counts hloop (by omega), tri_clockOnce_fires rfl hzero]

/-- Both clocks count. -/
theorem tri_clock_counts {t : Triangle} (hloop : t.timer.loop = true) (hcount : 2 ≤ t.timer.count) :
    t.clock = { t with timer := ⟨t.timer.period, t.timer.count - 2, true⟩ } := by
  have hpos : t.timer.count - 1 ≠ 0 := by omega
  rw [Triangle.clock, tri_clockOnce_counts hloop (by omega), tri_clockOnce_counts rfl hpos]
  rfl

theorem noise_clock_fires {n : Noise} (hloop : n.timer.loop = true) (hcount : n.timer.count = 0) : n.clock = { n with
    timer := ⟨n.timer.period, n.timer.period, true⟩
    lfsr := n.lfsr.clock } := by
  rw [Noise.clock, divider_fires hloop hcount, if_pos rfl]

theorem noise_clock_counts {n : Noise} (hloop : n.timer.loop = true) (hcount : n.timer.count ≠ 0) :
    n.clock = { n with timer := ⟨n.timer.period, n.timer.count - 1, true⟩ } := by
  rw [Noise.clock, divider_counts hloop hcount, if_neg Bool.false_ne_true]

/-! ### The sweep on a half frame -/

/-- The sweep's target as R74 writes it, the shift as a division. -/
theorem sweepTarget_eq (k : PulseId) (raw : Nat) (s : Sweep) : sweepTarget k raw s =
    if s.negate then (raw : Int) - (raw / 2 ^ s.shift.toNat : Nat) - (if k = .p1 then 1 else 0)
    else (raw : Int) + (raw / 2 ^ s.shift.toNat : Nat) := by
  rw [sweepTarget, Nat.shiftRight_eq_div_pow]
  cases k <;> rfl

theorem sweepAdjust_mutes {k : PulseId} {raw : Nat} {s : Sweep} (h : sweepTarget k raw s < 8 ∨ 2047 < sweepTarget k raw s) :
    sweepAdjust k raw s = .mute :=
  if_pos h

theorem sweepAdjust_sets {k : PulseId} {raw : Nat} {s : Sweep} (hlo : 8 ≤ sweepTarget k raw s)
    (hhi : sweepTarget k raw s ≤ 2047) : sweepAdjust k raw s = .set (sweepTarget k raw s).toNat :=
  if_neg (not_or.2 ⟨Int.not_lt.2 hlo, Int.not_lt.2 hhi⟩)

theorem sweep_disabled {s : Sweep} (hen : s.enabled = false) (k : PulseId) (raw : Nat) : s.clock k raw = (s, .none) := by
  rw [Sweep.clock, hen, if_neg Bool.false_ne_true]

theorem sweep_counts {s : Sweep} (hen : s.enabled = true) (hloop : s.div.loop = true) (hcount : s.div.count ≠ 0)
    (k : PulseId) (raw : Nat) :
    s.clock k raw = ({ s with div := ⟨s.div.period, s.div.count - 1, true⟩ }, .none) := by
  rw [Sweep.clock, if_pos hen, divider_counts hloop hcount, if_neg Bool.false_ne_true]

theorem sweep_fires {s : Sweep} (hen : s.enabled = true) (hloop : s.div.loop = true) (hcount : s.div.count = 0)
    (k : PulseId) (raw : Nat) :
    s.clock k raw = ({ s with div := ⟨s.div.period, s.div.period, true⟩ }, sweepAdjust k raw s) := by
  rw [Sweep.clock, if_pos hen, divider_fires hloop hcount, if_pos rfl]

/-- Settles O41: the length counter's clock, and the sweep's clock in its four cases. -/
theorem sweepSetsOrMutesOnHalfFrames : Obligations.SweepSetsOrMutesOnHalfFrames := by
  intro k p target len hloop hlenloop hlen htarget
  rw [← lengthCounter_clock_eq hlenloop] at hlen
  rw [← sweepTarget_eq] at htarget
  subst hlen htarget
  refine ⟨fun hen => ?disabled, fun hen hcount => ?counts, fun hen hcount hout => ?mutes, fun hen hcount hlo hhi => ?sets⟩
  case disabled => rw [Pulse.half, sweep_disabled hen, Pulse.applySweep]
  case counts => rw [Pulse.half, sweep_counts hen hloop hcount, Pulse.applySweep]
  case mutes => rw [Pulse.half, sweep_fires hen hloop hcount, sweepAdjust_mutes hout, Pulse.applySweep]
  case sets =>
    rw [Pulse.half, sweep_fires hen hloop hcount, sweepAdjust_sets hlo hhi, Pulse.applySweep]
    rfl

/-! ### The triangle's output and the tables -/

/-- The ramp's entries: 15 down to 0, then 0 up to 15 (R82). -/
theorem triangleTable_entry : ∀ i : Fin 32,
    triangleTable[i.val].toNat = if i.val ≤ 15 then 15 - i.val else i.val - 16 := by decide

/-- Settles O43: the two nested guards are one disjunction, and with the index in range the value is the ramp's entry. -/
theorem triangleOutputIsTheGatedRamp : Obligations.TriangleOutputIsTheGatedRamp := by
  intro t hidx
  have hvalue : (t.seq.value triangleTable).toNat = if t.seq.index ≤ 15 then 15 - t.seq.index else t.seq.index - 16 := by
    rw [← triangleTable_entry ⟨t.seq.index, hidx⟩]
    have h := table_index hidx triangleTable
    rw [Vector.getElem?_eq_getElem hidx, Option.some_inj] at h
    rw [← h]
  rw [← hvalue]
  simp only [Triangle.get, Bool.or_eq_true, exhausted_iff, Bool.not_eq_true', ite_or, apply_ite BitVec.toNat,
    BitVec.toNat_ofNat, Nat.zero_mod]

/-- Settles O45: the entries are read off the tables. -/
theorem tablesHoldTheChosenValues : Obligations.TablesHoldTheChosenValues := by
  refine ⟨?lengths, ?noisePeriods, ?duties⟩ <;> decide

end Sys2Proof.Proofs.Clocks

/-! PROOFS. The core tick: its frame events, clocks and schedules, that the enable flags stop none of them, and runs of ticks
(44_chip_core.md sections 2 to 4, 60_exceptions.md section 3; R114 to R121). -/

namespace Sys2Proof.Proofs.Ticks

open Sys2Proof Sys2Proof.Machine
open Sys2Proof.Proofs.Encoding (decode_eventWord)
open Sys2Proof.Proofs.Steps
open Sys2Proof.Proofs.Invariant (tickBody_wf)
open Sys2Proof.Proofs.History (run_succ_of_next)
open Sys2Proof.Proofs.Clocks

/-! ### The frame events by the frame counter (R115) -/

/-- At the points 0 and 7456 a quarter frame and then a half frame fire. -/
theorem ticked_half {s : State} (h : s.fc = 0 ∨ s.fc = 7456) :
    s.ticked = s.quarterFrame.halfFrame.clockChannels := by
  rw [State.ticked, schedule_eq]
  rcases h with h | h <;> rw [h] <;> rfl

/-- At the points 3729 and 11185 a quarter frame alone fires. -/
theorem ticked_quarter {s : State} (h : s.fc = 3729 ∨ s.fc = 11185) : s.ticked = s.quarterFrame.clockChannels := by
  rw [State.ticked, schedule_eq]
  rcases h with h | h <;> rw [h] <;> rfl

/-- At every other count nothing fires. -/
theorem ticked_quiet {s : State} (h0 : s.fc ≠ 0) (h1 : s.fc ≠ 3729) (h2 : s.fc ≠ 7456) (h3 : s.fc ≠ 11185) :
    s.ticked = s.clockChannels := by
  rw [State.ticked, schedule_eq, beq_false_of_ne h0, beq_false_of_ne h1, beq_false_of_ne h2, beq_false_of_ne h3]
  rfl

/-- The wrap of the mode in force, as the register bit says it (R114, R118). -/
theorem frameWrap_mode5 (s : State) : frameWrap s.mode5 = if (s.getReg 0x17#5).getLsbD 7 then 18641 else 14915 := rfl

/-- The write head after the body of a tick (R123). -/
theorem tickBody_wHead (s : State) : s.tickBody.fifo.wHead =
    if 1789773 ≤ s.acc + 96000 then (s.fifo.wHead + 2) % 192000 else s.fifo.wHead := by
  rw [State.tickBody_fifo, apply_ite Fifo.wHead, Fifo.push_wHead]

/-- The fill after the body of a tick (R123). -/
theorem tickBody_fill (s : State) : s.tickBody.fifo.fill =
    if 1789773 ≤ s.acc + 96000 then s.fifo.fill + 2 else s.fifo.fill := by
  rw [State.tickBody_fifo, apply_ite Fifo.fill, Fifo.push_fill]

/-- The write lock is clear after the push of a due tick (R129). -/
theorem tickBody_wlock_due {s : State} (hdue : 1789773 ≤ s.acc + 96000) : s.tickBody.fifo.wlock = false := by
  rw [State.tickBody_fifo, if_pos hdue, Fifo.push_wlock]

/-- Settles O29: the tick field by field from its lemmas, then each channel, envelope and counter clock by its cases. -/
theorem tickRunsFrameEventsClocksAndSchedule : Obligations.TickRunsFrameEventsClocksAndSchedule := by
  refine ⟨fun s hroom => ?tick,
    fun p hloop => ⟨pulse_clock_fires hloop, pulse_clock_counts hloop⟩,
    fun t hloop => ⟨tri_clock_fires_twice hloop, tri_clock_fires_first hloop, tri_clock_fires_second hloop,
      tri_clock_counts hloop⟩,
    fun n hloop => ⟨noise_clock_fires hloop, noise_clock_counts hloop⟩,
    fun p t n => ⟨rfl, rfl, rfl, rfl, rfl⟩,
    fun e hloop => ⟨fun hstart => ?started, envelope_counts hloop, fun hstart hcount => ?fired⟩,
    fun c hloop => ⟨lengthCounter_halted, lengthCounter_counts hloop⟩⟩
  case tick =>
    refine ⟨s.tickBody, exec_tick_of_room hroom, fun hfc => ?_, fun hfc => ?_, fun h0 h1 h2 h3 => ?_, ?_, fun hdue => ?_,
      fun hnot => ?_, s.tickBody_reg, s.tickBody_gain, s.tickBody_marks, s.tickBody_stream, s.tickBody_reads,
      s.tickBody_chunks⟩
    · rw [State.tickBody_p0, State.tickBody_p1, State.tickBody_tri, State.tickBody_noise, ticked_half hfc]
      exact ⟨rfl, rfl, rfl, rfl⟩
    · rw [State.tickBody_p0, State.tickBody_p1, State.tickBody_tri, State.tickBody_noise, ticked_quarter hfc]
      exact ⟨rfl, rfl, rfl, rfl⟩
    · rw [State.tickBody_p0, State.tickBody_p1, State.tickBody_tri, State.tickBody_noise, ticked_quiet h0 h1 h2 h3]
      exact ⟨rfl, rfl, rfl, rfl⟩
    · rw [State.tickBody_fc, frameWrap_mode5, ← ite_not]
      simp only [Nat.not_le]
    · exact ⟨by rw [State.tickBody_acc, if_pos hdue], by rw [tickBody_wHead, if_pos hdue],
        by rw [tickBody_fill, if_pos hdue], tickBody_rHead s, tickBody_wlock_due hdue⟩
    · have hnot : ¬ 1789773 ≤ s.acc + 96000 := Nat.not_le.2 hnot
      exact ⟨by rw [State.tickBody_acc, if_neg hnot], by rw [State.tickBody_fifo, if_neg hnot]⟩
  case started => rw [Envelope.clock_started e hstart, ← hloop]
  case fired =>
    have hdecayed : e.decayed = if e.decay = 0#4 then (if e.loop then 15#4 else 0#4) else e.decay - 1#4 := by
      rw [Envelope.decayed, ite_not]
      by_cases hzero : e.decay = 0#4
      · rw [if_pos hzero, if_pos hzero, hzero]
      · rw [if_neg hzero, if_neg hzero]
    rw [envelope_fires hloop hstart hcount, hdecayed]

/-! ### The enable flags and the clocks (D33) -/

/-- A half frame of a pulse channel does the same whatever its enable flag, but for the flag itself (R89). -/
theorem pulse_half_enabled (k : PulseId) (p : Pulse) (a : Bool) :
    ∃ a', ({ p with enabled := a } : Pulse).half k = { p.half k with enabled := a' } := by
  cases ho : (p.sweep.clock k p.raw).2 with
  | none => exact ⟨a, by simp only [Pulse.half, ho, Pulse.applySweep]⟩
  | set t => exact ⟨a, by simp only [Pulse.half, ho, Pulse.applySweep]⟩
  | mute => exact ⟨false, by simp only [Pulse.half, ho, Pulse.applySweep]⟩

/-- The half frame of a state with its flags set some way: the half frame, its flags set some way. -/
theorem halfFrame_withEnables (s : State) (a b c d : Bool) :
    ∃ a' b' c' d', (s.withEnables a b c d).halfFrame = s.halfFrame.withEnables a' b' c' d' := by
  obtain ⟨a', ha⟩ := pulse_half_enabled .p0 s.p0 a
  obtain ⟨b', hb⟩ := pulse_half_enabled .p1 s.p1 b
  refine ⟨a', b', c, d, ?_⟩
  rw [State.halfFrame, State.withEnables, ha, hb]
  rfl

/-- The frame events and the clocks of a state with its flags set some way. -/
theorem ticked_withEnables (s : State) (a b c d : Bool) :
    ∃ a' b' c' d', (s.withEnables a b c d).ticked = s.ticked.withEnables a' b' c' d' := by
  have hevents : ∀ ev : Bool × Bool,
      ∃ a' b' c' d', (s.withEnables a b c d).frameEvents ev = (s.frameEvents ev).withEnables a' b' c' d' := by
    rintro ⟨_ | _, _ | _⟩
    · exact ⟨a, b, c, d, rfl⟩
    · exact halfFrame_withEnables s a b c d
    · exact ⟨a, b, c, d, rfl⟩
    · exact halfFrame_withEnables s.quarterFrame a b c d
  obtain ⟨a', b', c', d', h⟩ := hevents (schedule s.mode5 s.fc)
  exact ⟨a', b', c', d', congrArg State.clockChannels h⟩

/-- Settles O31: the flags enter neither the test of the hold nor the schedules, and the clocks only hand them on. -/
theorem enablesDoNotStopTheChannels : Obligations.EnablesDoNotStopTheChannels := by
  intro s t a b c d h
  have hholds : (s.withEnables a b c d).tickHolds = s.tickHolds := rfl
  have hacc : (s.withEnables a b c d).acc = s.acc := rfl
  have hfifo : (s.withEnables a b c d).fifo = s.fifo := rfl
  rcases exec_tick_cases h with ⟨hheld, rfl⟩ | ⟨hruns, rfl⟩
  · exact ⟨State.withEnables _ a b c d, by rw [exec_tick, hholds, if_pos hheld], rfl, rfl, rfl, rfl, rfl, rfl, rfl, rfl⟩
  · obtain ⟨a', b', c', d', hticked⟩ := ticked_withEnables s a b c d
    refine ⟨_, by rw [exec_tick, hholds, hruns, if_neg Bool.false_ne_true], ?_, ?_, ?_, ?_, ?_, ?_, ?_, ?_⟩
    · rw [State.tickBody_p0, State.tickBody_p0, hticked]
      rfl
    · rw [State.tickBody_p1, State.tickBody_p1, hticked]
      rfl
    · rw [State.tickBody_tri, State.tickBody_tri, hticked]
      rfl
    · rw [State.tickBody_noise, State.tickBody_noise, hticked]
      rfl
    · rw [State.tickBody_fc, State.tickBody_fc]
      rfl
    · rw [State.tickBody_acc, State.tickBody_acc]
      rfl
    · rw [tickBody_wHead, tickBody_wHead, hacc, hfifo]
    · rw [tickBody_fill, tickBody_fill, hacc, hfifo]

/-! ### Runs of ticks (R118, R121) -/

/-- A step of a sound machine whose next command is a TICK that does not hold. -/
theorem step_tick {s : State} {rest : List Command} (hs : s.stream = tickCommand :: rest) (hwf : s.Wf)
    (hfault : s.marks.fault = false) (hroom : s.acc + 96000 < 1789773 ∨ s.fifo.fill ≤ 192000 - 2) :
    step s = .next { s with stream := rest }.tickBody := by
  rw [stepRunsTheDecodedCommand s tickCommand rest .tick hs hwf hfault (decode_eventWord 0x00#6 0#64)]
  exact exec_tick_of_room hroom

/-- The accumulator and the fill after a tick, in closed form: the fill grows where the accumulator passes the chip clock. -/
theorem tickBody_acc_fill {s : State} (hacc : s.acc < 1789773) :
    s.tickBody.acc = (s.acc + 96000) % 1789773 ∧
      s.tickBody.fifo.fill = s.fifo.fill + 2 * ((s.acc + 96000) / 1789773) := by
  rw [State.tickBody_acc, tickBody_fill]
  split_ifs <;> omega

/-- The frame counter after a tick that starts below the wrap of its mode: one place on around the cycle. -/
theorem tickBody_fc_mod {s : State} (hfc : s.fc < frameWrap s.mode5) : s.tickBody.fc = (s.fc + 1) % frameWrap s.mode5 := by
  rw [State.tickBody_fc]
  split_ifs with hwrap
  · rw [show s.fc + 1 = frameWrap s.mode5 from Nat.le_antisymm hfc hwrap, Nat.mod_self]
  · rw [Nat.mod_eq_of_lt (Nat.lt_of_not_le hwrap)]

/-- Settles O56, by induction on the ticks: the first one finds room, keeps the bounds, and leaves the rest of the sums to the
others. -/
theorem tickRunFollowsTheSampleSchedule : Obligations.TickRunFollowsTheSampleSchedule := by
  intro n
  simp only [← frameWrap_mode5]
  induction n with
  | zero =>
    intro s rest hwf _ hs _
    obtain ⟨-, -, -, -, -, hacc, -⟩ := hwf
    have hacc : s.acc < 1789773 := hacc
    exact ⟨s, rfl, hs, by omega, by omega, rfl, fun hfc => (Nat.mod_eq_of_lt hfc).symm⟩
  | succ n ih =>
    intro s rest hwf hfault hs hroom
    obtain ⟨-, -, -, -, -, hacc, -⟩ := id hwf
    have hacc : s.acc < 1789773 := hacc
    have hfirst : s.acc + 96000 < 1789773 ∨ s.fifo.fill ≤ 192000 - 2 := by omega
    have hcons : s.stream = tickCommand :: (List.replicate n tickCommand ++ rest) := by
      rw [hs, List.replicate_succ, List.cons_append]
    have hstep := step_tick hcons hwf hfault hfirst
    generalize hu : ({ s with stream := List.replicate n tickCommand ++ rest } : State) = u at hstep
    have huwf : u.Wf := by rw [← hu]; exact hwf
    have huacc : u.acc = s.acc := by rw [← hu]
    have hufill : u.fifo.fill = s.fifo.fill := by rw [← hu]
    have hureg : u.tickBody.reg = s.reg := by rw [State.tickBody_reg, ← hu]
    obtain ⟨htacc, htfill⟩ := tickBody_acc_fill (huacc ▸ hacc)
    rw [huacc] at htacc
    rw [huacc, hufill] at htfill
    obtain ⟨t, hrun, hstream, hacc', hfill', hreg, hfc⟩ := ih u.tickBody rest
      (tickBody_wf huwf (State.tickHolds_false (by omega))) (by rw [State.tickBody_marks, ← hu]; exact hfault)
      (by rw [State.tickBody_stream, ← hu]) (by rw [htacc, htfill]; omega)
    refine ⟨t, (run_succ_of_next n hstep).trans hrun, hstream, by rw [hacc', htacc]; omega,
      by rw [hfill', htacc, htfill]; omega, hreg.trans hureg, fun hlt => ?_⟩
    have humode : u.mode5 = s.mode5 := State.mode5_congr (by rw [← hu])
    have hufc : u.fc = s.fc := by rw [← hu]
    have hult : u.fc < frameWrap u.mode5 := by rwa [humode, hufc]
    have htfc := tickBody_fc_mod hult
    rw [humode, hufc] at htfc
    rw [State.mode5_congr hureg, htfc] at hfc
    rw [hfc (Nat.mod_lt _ (by omega)), Nat.mod_add_mod, Nat.add_right_comm, Nat.add_assoc]

end Sys2Proof.Proofs.Ticks

/-! PROOFS. Rounding to the nearest binary64 value (00_scope.md section 5; R7). -/

namespace Sys2Proof.Proofs.Rounding

open Sys2Proof Sys2Proof.Machine

/-! ### Round to nearest, ties to even -/

/-- The exponent step puts the significand of `q` units below 2 ^ 53. -/
theorem lt_of_f64Step (q : Nat) : q < 2 ^ 53 * 2 ^ f64Step q := by
  rw [f64Step]
  split_ifs with h
  · omega
  · have hlog : 52 ≤ Nat.log2 q := by
      by_contra hlt
      exact h ((Nat.log2_lt (by omega)).1 (by omega))
    rw [← pow_add, show 53 + (Nat.log2 q - 52) = Nat.log2 q + 1 by omega]
    exact Nat.lt_log2_self

/-- And, unless it is 0, at least 2 ^ 52. -/
theorem le_of_f64Step {q : Nat} (h : f64Step q ≠ 0) : 2 ^ 52 * 2 ^ f64Step q ≤ q := by
  rw [f64Step] at h ⊢
  split_ifs at h ⊢
  · exact absurd rfl h
  · rw [← pow_add, show 52 + (Nat.log2 q - 52) = Nat.log2 q by omega]
    exact Nat.log2_self_le (by omega)

/-- The spacing of binary64 values in the binade of `n / d` units, times `d`: the unit in which `n` is rounded. -/
def spacing (n d : Nat) : Nat := d * 2 ^ f64Step (n / d)

/-- The significand that `n / d` units are rounded to. -/
def significand (n d : Nat) : Nat := roundTiesEven n (spacing n d)

theorem spacing_pos {d : Nat} (hd : 0 < d) (n : Nat) : 0 < spacing n d := Nat.mul_pos hd (Nat.two_pow_pos _)

theorem significand_le (n d : Nat) : significand n d ≤ 2 ^ 53 := by
  have hq : n / spacing n d < 2 ^ 53 := by
    rw [spacing, ← Nat.div_div_eq_div_mul]
    exact Nat.div_lt_of_lt_mul (by rw [Nat.mul_comm]; exact lt_of_f64Step (n / d))
  rcases roundTiesEven_cases n (spacing n d) with h | h <;> rw [significand, h] <;> omega

/-- Above the lowest binades `n` is at least 2 ^ 52 of its spacings. -/
theorem spacing_le {d n : Nat} (h : f64Step (n / d) ≠ 0) : 2 ^ 52 * spacing n d ≤ n :=
  calc 2 ^ 52 * spacing n d = d * (2 ^ 52 * 2 ^ f64Step (n / d)) := by rw [spacing, Nat.mul_left_comm]
    _ ≤ d * (n / d) := Nat.mul_le_mul_left d (le_of_f64Step h)
    _ ≤ n := Nat.mul_div_le n d

theorem le_significand {d : Nat} (hd : 0 < d) {n : Nat} (h : f64Step (n / d) ≠ 0) : 2 ^ 52 ≤ significand n d := by
  have hq : 2 ^ 52 ≤ n / spacing n d := (Nat.le_div_iff_mul_le (spacing_pos hd n)).2 (spacing_le h)
  rcases roundTiesEven_cases n (spacing n d) with e | e <;> rw [significand, e] <;> omega

/-- A finite result is the significand in the binade of its step. -/
theorem f64RoundMag_eq {n d : Nat} (hfin : f64RoundMag n d < 2047 * 2 ^ 52) :
    f64RoundMag n d = f64Step (n / d) * 2 ^ 52 + significand n d := by
  simp only [f64RoundMag, significand, spacing] at hfin ⊢
  omega

/-- The units of a finite result. -/
theorem magUnits_f64RoundMag {n d : Nat} (hd : 0 < d) (hfin : f64RoundMag n d < 2047 * 2 ^ 52) :
    magUnits (f64RoundMag n d) = significand n d * 2 ^ f64Step (n / d) := by
  have hle := significand_le n d
  rw [f64RoundMag_eq hfin]
  by_cases hk : f64Step (n / d) = 0
  · rw [hk, Nat.zero_mul, Nat.zero_add, pow_zero, Nat.mul_one]
    exact magUnits_small _ hle
  · exact magUnits_step _ _ (le_significand hd hk) hle

/-- Every binary64 value is a whole number of spacings of a binade, or below the binade. -/
theorem dvd_units_or_lt (k : Nat) (y : F64) : 2 ^ k ∣ f64Units y ∨ f64Units y < 2 ^ 52 * 2 ^ k := by
  have hfrac : f64Frac y < 2 ^ 52 := (y.extractLsb' 0 52).isLt
  have hpos : 0 < 2 ^ k := Nat.two_pow_pos k
  rw [f64Units]
  split_ifs with hexp
  · exact .inr (hfrac.trans_le (Nat.le_mul_of_pos_right _ hpos))
  · rcases Nat.lt_or_ge (f64Exp y - 1) k with hk | hk
    · refine .inr ?_
      have hpow : 2 ^ (f64Exp y - 1) * 2 ≤ 2 ^ k := by
        rw [← pow_succ]
        exact Nat.pow_le_pow_right (by decide) hk
      calc (f64Frac y + 2 ^ 52) * 2 ^ (f64Exp y - 1) < 2 ^ 53 * 2 ^ (f64Exp y - 1) :=
            Nat.mul_lt_mul_of_pos_right (by omega) (Nat.two_pow_pos _)
        _ = 2 ^ 52 * (2 ^ (f64Exp y - 1) * 2) := by omega
        _ ≤ 2 ^ 52 * 2 ^ k := Nat.mul_le_mul_left _ hpow
    · exact .inl (Dvd.dvd.mul_left (pow_dvd_pow 2 hk) _)

/-- `|a - n|`, the distance in which nearest is meant. -/
def gap (a n : Nat) : Nat := ((a : Int) - n).natAbs

/-- Among the multiples of the spacing, the one of the significand is nearest; where another is as near, the significand is even. -/
theorem significand_nearest {d : Nat} (hd : 0 < d) (n m : Nat) :
    gap (significand n d * spacing n d) n ≤ gap (m * spacing n d) n ∧
      (gap (significand n d * spacing n d) n = gap (m * spacing n d) n → m ≠ significand n d →
        significand n d % 2 = 0) := by
  obtain ⟨hhi, hlo, htie⟩ := roundTiesEven_spec n (spacing n d) (spacing_pos hd n)
  rw [← significand] at hhi hlo htie
  have hapart : m = significand n d ∨ m * spacing n d + spacing n d ≤ significand n d * spacing n d ∨
      significand n d * spacing n d + spacing n d ≤ m * spacing n d := by
    rcases Nat.lt_trichotomy m (significand n d) with h | h | h
    · exact .inr (.inl (by rw [← Nat.succ_mul]; exact Nat.mul_le_mul_right _ h))
    · exact .inl h
    · exact .inr (.inr (by rw [← Nat.succ_mul]; exact Nat.mul_le_mul_right _ h))
  rcases hapart with rfl | h
  · exact ⟨Nat.le_refl _, fun _ hne => absurd rfl hne⟩
  · exact ⟨by unfold gap; omega, fun heq _ => htie (by unfold gap at heq; omega)⟩

/-- No binary64 value is nearer to `n / d` units than a finite result, and at a tie the result's significand is even. -/
theorem f64RoundMag_nearest {n d : Nat} (hd : 0 < d) (hfin : f64RoundMag n d < 2047 * 2 ^ 52) (y : F64) :
    gap (magUnits (f64RoundMag n d) * d) n ≤ gap (f64Units y * d) n ∧
      (gap (magUnits (f64RoundMag n d) * d) n = gap (f64Units y * d) n →
        f64Units y ≠ magUnits (f64RoundMag n d) → f64RoundMag n d % 2 = 0) := by
  have hscale : ∀ m, m * 2 ^ f64Step (n / d) * d = m * spacing n d := fun m => by
    rw [spacing, Nat.mul_assoc, Nat.mul_comm d]
  have heven : f64RoundMag n d % 2 = significand n d % 2 := by
    rw [f64RoundMag_eq hfin]
    omega
  rw [magUnits_f64RoundMag hd hfin, hscale, heven]
  rcases dvd_units_or_lt (f64Step (n / d)) y with ⟨m, hm⟩ | hlt
  · rw [hm, Nat.mul_comm (2 ^ _) m, hscale]
    obtain ⟨hle, htie⟩ := significand_nearest hd n m
    exact ⟨hle, fun heq hne => htie heq fun h => hne (by rw [h])⟩
  · by_cases hk : f64Step (n / d) = 0
    · obtain ⟨hle, htie⟩ := significand_nearest hd n (f64Units y)
      have hunit : f64Units y * spacing n d = f64Units y * d := by rw [← hscale, hk, pow_zero, Nat.mul_one]
      rw [hunit] at hle htie
      exact ⟨hle, fun heq hne => htie heq fun h => hne (by rw [h, hk, pow_zero, Nat.mul_one])⟩
    · have hbelow : f64Units y * d < 2 ^ 52 * spacing n d := by
        rw [← hscale]
        exact Nat.mul_lt_mul_of_pos_right hlt hd
      have hn := spacing_le hk
      obtain ⟨hle, -⟩ := significand_nearest hd n (2 ^ 52)
      have hfar : gap (2 ^ 52 * spacing n d) n < gap (f64Units y * d) n := by
        unfold gap
        omega
      exact ⟨(hle.trans_lt hfar).le, fun heq _ => absurd heq (hle.trans_lt hfar).ne⟩

/-- Settles O49: the result's units are those of its magnitude bits, and no value's units are nearer. -/
theorem roundingIsToNearestEven : Obligations.RoundingIsToNearestEven := by
  intro n d hd hfin y _ _
  have hunits : f64Units (f64Pack false (f64RoundMag n d)) = magUnits (f64RoundMag n d) := f64Units_pack _ _ (by omega)
  have h := f64RoundMag_nearest hd hfin y
  rw [hunits]
  simpa only [gap, Nat.cast_mul] using h

/-! ### What rounding cannot pass -/

/-- Below 2 ^ 2097 units rounding stays finite. -/
theorem f64RoundMag_finite {n d e : Nat} (he : e ≤ 2097) (h : n / d < 2 ^ e) :
    f64RoundMag n d < 2047 * 2 ^ 52 := by
  have hstep : f64Step (n / d) ≤ 2044 := by
    rw [f64Step]
    split_ifs with hsmall
    · omega
    · have hlog : Nat.log2 (n / d) < e := (Nat.log2_lt (by omega)).2 h
      omega
  have hle := significand_le n d
  rw [significand, spacing] at hle
  simp only [f64RoundMag]
  omega

/-- Rounding does not pass a binary64 value: what is at most the value's units is rounded to at most them. -/
theorem magUnits_f64RoundMag_le {n d : Nat} (hd : 0 < d) (hfin : f64RoundMag n d < 2047 * 2 ^ 52) {y : F64}
    (h : n ≤ f64Units y * d) : magUnits (f64RoundMag n d) ≤ f64Units y := by
  by_contra hgt
  have hmul : f64Units y * d < magUnits (f64RoundMag n d) * d := Nat.mul_lt_mul_of_pos_right (Nat.lt_of_not_le hgt) hd
  have hnear := (f64RoundMag_nearest hd hfin y).1
  unfold gap at hnear
  omega

end Sys2Proof.Proofs.Rounding

/-! PROOFS. The mixer: its range, its zeros, its formula and its published values (44_chip_core.md section 4; R122). -/

namespace Sys2Proof.Proofs.Mixer

open Sys2Proof Sys2Proof.Machine
open Sys2Proof.Proofs.Rounding

/-! ### The constants of the mixer as bits -/

theorem f64OfNat_zero : f64OfNat 0 = 0x0000000000000000#64 := by decide +kernel
theorem f64OfNat_one : f64OfNat 1 = 0x3FF0000000000000#64 := by decide +kernel
theorem f64OfNat_100 : f64OfNat 100 = 0x4059000000000000#64 := by decide +kernel
theorem f64OfNat_8128 : f64OfNat 8128 = 0x40BFC00000000000#64 := by decide +kernel
theorem f64OfNat_8227 : f64OfNat 8227 = 0x40C0118000000000#64 := by decide +kernel
theorem f64OfNat_12241 : f64OfNat 12241 = 0x40C7E88000000000#64 := by decide +kernel
theorem f64OfNat_32767 : f64OfNat 32767 = 0x40DFFFC000000000#64 := by decide +kernel
theorem f64OfRatio_9588 : f64OfRatio 9588 100 = 0x4057F851EB851EB8#64 := by decide +kernel
theorem f64OfRatio_15979 : f64OfRatio 15979 100 = 0x4063F947AE147AE1#64 := by decide +kernel
theorem f64MinusOne_bits : f64MinusOne = 0xBFF0000000000000#64 := by decide +kernel

theorem f64Signed_one : f64Signed (f64OfNat 1) = f64One := by decide +kernel
theorem f64Signed_minusOne : f64Signed f64MinusOne = -f64One := by decide +kernel
theorem f64Units_32767 : f64Units (f64OfNat 32767) = 32767 * f64One := by decide +kernel

theorem f64One_pos : 0 < f64One := by decide +kernel

/-! ### The clamp and the last rounding -/

/-- The magnitude of a value is that of its signed units. -/
theorem natAbs_f64Signed (x : F64) : (f64Signed x).natAbs = f64Units x := by
  rw [f64Signed]
  split_ifs
  · rw [Int.natAbs_neg, Int.natAbs_natCast]
  · rw [Int.natAbs_natCast]

/-- The clamp in one case split: -1 is not above 1 (R122). -/
theorem clampUnit_eq (x : F64) : clampUnit x =
    if f64Lt x f64MinusOne then f64MinusOne else if f64Lt (f64OfNat 1) x then f64OfNat 1 else x := by
  have hne : f64Lt (f64OfNat 1) f64MinusOne = false := by
    rw [f64Lt, f64Signed_one, f64Signed_minusOne]
    exact decide_eq_false (by omega)
  rw [clampUnit]
  by_cases hlow : f64Lt x f64MinusOne = true
  · rw [if_pos hlow, if_pos hlow, hne, if_neg Bool.false_ne_true]
  · rw [if_neg hlow, if_neg hlow]

/-- The clamped value is at most 1 in magnitude, whatever was clamped. -/
theorem f64Units_clampUnit_le (x : F64) : f64Units (clampUnit x) ≤ f64One := by
  rw [← natAbs_f64Signed, clampUnit_eq]
  split_ifs with hlow hhigh
  · rw [f64Signed_minusOne]
    omega
  · rw [f64Signed_one]
    omega
  · rw [f64Lt, decide_eq_true_iff] at hlow hhigh
    rw [f64Signed_minusOne] at hlow
    rw [f64Signed_one] at hhigh
    omega

/-- The units of a product (R7). -/
theorem f64Units_mul (x y : F64) : f64Units (f64Mul x y) = magUnits (f64RoundMag (f64Units x * f64Units y) f64One) := by
  have hle := f64RoundMag_le (f64Units x * f64Units y) f64One
  rw [f64Mul, f64Round, f64Units_pack _ _ (by omega)]

/-- The product of a value of magnitude at most 1 with 32767 is at most 32767 in magnitude. -/
theorem f64Units_mul_32767_le {x : F64} (h : f64Units x ≤ f64One) :
    f64Units (f64Mul x (f64OfNat 32767)) ≤ 32767 * f64One := by
  have hprod : f64Units x * f64Units (f64OfNat 32767) ≤ f64Units (f64OfNat 32767) * f64One := by
    rw [Nat.mul_comm]
    exact Nat.mul_le_mul_left _ h
  have hquot : f64Units x * f64Units (f64OfNat 32767) / f64One < 2 ^ (15 + 1074) :=
    calc f64Units x * f64Units (f64OfNat 32767) / f64One ≤ f64Units (f64OfNat 32767) :=
          Nat.div_le_of_le_mul (by rwa [Nat.mul_comm f64One])
      _ = 32767 * f64One := f64Units_32767
      _ < 2 ^ (15 + 1074) := by
          rw [pow_add, ← f64One]
          exact Nat.mul_lt_mul_of_pos_right (by decide) f64One_pos
  rw [f64Units_mul, ← f64Units_32767]
  exact magUnits_f64RoundMag_le f64One_pos (f64RoundMag_finite (by decide) hquot) hprod

/-- `floor(|y| + 1/2)`, the magnitude that rounding half away from zero answers (R122). -/
def roundAwayMag (y : F64) : Nat := (2 * f64Units y + f64One) / (2 * f64One)

theorem f64RoundAway_eq (y : F64) : f64RoundAway y = if f64Neg y then -(roundAwayMag y : Int) else (roundAwayMag y : Int) := rfl

/-- The floor's two bounds. -/
theorem roundAwayMag_bounds (y : F64) : 2 * roundAwayMag y * f64One ≤ 2 * f64Units y + f64One ∧
    2 * f64Units y + f64One < 2 * (roundAwayMag y + 1) * f64One := by
  have hpos : 0 < 2 * f64One := Nat.mul_pos (by decide) f64One_pos
  have hshape : ∀ m, 2 * m * f64One = m * (2 * f64One) := fun m => by rw [Nat.mul_comm 2 m, Nat.mul_assoc]
  rw [hshape, hshape]
  exact ⟨Nat.div_mul_le_self _ _, (Nat.div_lt_iff_lt_mul hpos).1 (Nat.lt_succ_self _)⟩

/-- A magnitude of at most 32767 is rounded to at most 32767. -/
theorem roundAwayMag_le {y : F64} (h : f64Units y ≤ 32767 * f64One) : roundAwayMag y ≤ 32767 := by
  have hpos := f64One_pos
  refine Nat.le_of_lt_succ ((Nat.div_lt_iff_lt_mul (by omega)).2 ?_)
  omega

/-- Settles O48: the clamp, the product and the last rounding each keep the magnitude within 32767. -/
theorem mixStaysInSampleRange : Obligations.MixStaysInSampleRange := by
  intro p0 p1 t n g _
  have hmag := roundAwayMag_le (f64Units_mul_32767_le (f64Units_clampUnit_le
    (f64Mul (f64Add (pulseOut (p0.toNat + p1.toNat)) (tndOut t.toNat n.toNat)) g)))
  have hrange : -32767 ≤ mixPcm p0 p1 t n g ∧ mixPcm p0 p1 t n g ≤ 32767 := by
    rw [mixPcm, mixLevel, f64RoundAway_eq]
    split_ifs <;> omega
  obtain ⟨hlo, hhi⟩ := hrange
  refine ⟨hlo, hhi, BitVec.toInt_ofInt_eq_self (by decide) ?_ ?_⟩
  · exact le_trans (by decide) hlo
  · exact lt_of_le_of_lt hhi (by decide)

/-! ### Zero in, zero out -/

/-- A product with a zero is a zero. -/
theorem f64Units_mul_zero {x y : F64} (h : f64Units x = 0 ∨ f64Units y = 0) : f64Units (f64Mul x y) = 0 := by
  have hprod : f64Units x * f64Units y = 0 := Nat.mul_eq_zero.2 h
  rw [f64Units_mul, hprod, f64RoundMag_zero, magUnits_small _ (Nat.zero_le _)]

/-- The clamp leaves a zero alone. -/
theorem clampUnit_zero {x : F64} (h : f64Units x = 0) : clampUnit x = x := by
  have hpos := f64One_pos
  have hsigned : f64Signed x = 0 := Int.natAbs_eq_zero.1 ((natAbs_f64Signed x).trans h)
  rw [clampUnit_eq, f64Lt, f64Lt, hsigned, f64Signed_minusOne, f64Signed_one, if_neg, if_neg] <;>
    rw [decide_eq_true_iff] <;> omega

/-- Where the mix before the clamp is a zero, so is the sample. -/
theorem mixSample_zero {p0 p1 t n : BitVec 4} {g : F64}
    (h : f64Units (f64Mul (f64Add (pulseOut (p0.toNat + p1.toNat)) (tndOut t.toNat n.toNat)) g) = 0) :
    mixSample p0 p1 t n g = 0#16 := by
  have hlevel : f64Units (mixLevel p0 p1 t n g) = 0 := by rw [mixLevel, clampUnit_zero h, h]
  have hmag : roundAwayMag (f64Mul (mixLevel p0 p1 t n g) (f64OfNat 32767)) = 0 := by
    have hpos := f64One_pos
    rw [roundAwayMag, f64Units_mul_zero (.inl hlevel)]
    exact Nat.div_eq_of_lt (by omega)
  rw [mixSample, mixPcm, f64RoundAway_eq, hmag]
  split_ifs <;> rfl

/-- All-zero channel outputs mix to 0, whatever the gain. -/
theorem mixSample_silent (g : F64) : mixSample 0#4 0#4 0#4 0#4 g = 0#16 := by
  have hsum : f64Units (f64Add (pulseOut 0) (tndOut 0 0)) = 0 := by decide +kernel
  exact mixSample_zero (f64Units_mul_zero (.inl hsum))

/-- Settles O47: a zero factor makes the mix a zero, and the rest keeps it one. -/
theorem zeroInputsOrZeroGainMixToZero : Obligations.ZeroInputsOrZeroGainMixToZero := by
  refine ⟨fun g _ => mixSample_silent g, fun p0 p1 t n => ⟨?_, ?_⟩⟩
  · exact mixSample_zero (f64Units_mul_zero (.inr (by decide)))
  · exact mixSample_zero (f64Units_mul_zero (.inr (by decide)))

/-! ### The formula and its published values -/

/-- Settles O60: the constants by their bits, the clamp in one case split, the floor by its bounds, and the tables by evaluation. -/
theorem mixerComputesTheFormula : Obligations.MixerComputesTheFormula := by
  refine ⟨fun ps => ?_, fun t n => ?_, ?_, fun y => ⟨roundAwayMag y, f64RoundAway_eq y, roundAwayMag_bounds y⟩, ?_, ?_, ?_, ?_⟩
  · rw [pulseOut, f64OfNat_zero, f64OfRatio_9588, f64OfNat_8128, f64OfNat_100]
  · rw [tndOut, f64OfNat_zero, f64OfRatio_15979, f64OfNat_one, f64OfNat_8227, f64OfNat_12241, f64OfNat_100]
  · rintro p0 p1 t n g x rfl
    rw [mixSample, mixPcm, mixLevel, clampUnit_eq, f64MinusOne_bits, f64OfNat_one, f64OfNat_32767]
  all_goals decide +kernel

end Sys2Proof.Proofs.Mixer

/-! PROOFS. Ticks of a silent machine (70_reset_and_hazards.md section 1; R147). -/

namespace Sys2Proof.Proofs.Silence

open Sys2Proof Sys2Proof.Machine
open Sys2Proof.Proofs.Steps
open Sys2Proof.Proofs.Invariant (ticked_of_parts)
open Sys2Proof.Proofs.History (sampleHistory_tick_due sampleHistory_tick_idle)
open Sys2Proof.Proofs.Mixer (mixSample_silent)

/-- A half frame enables no pulse channel: its sweep can only mute (R89). -/
theorem pulse_half_disabled (k : PulseId) {p : Pulse} (h : p.enabled = false) : (p.half k).enabled = false := by
  rcases Pulse.half_cases k p with ⟨e, -⟩ | ⟨t, e, -⟩ | ⟨e, -⟩ <;> rw [e]
  · exact h
  · exact h

/-- The frame events and the clocks of a tick enable no channel. -/
theorem ticked_silent {s : State} (h : s.silent) : s.ticked.silent := by
  refine ticked_of_parts (motive := State.silent) (fun u hu => hu) (fun u hu => ?_) (fun u hu => hu) h
  obtain ⟨h0, h1, htri, hnoise⟩ := hu
  exact ⟨pulse_half_disabled .p0 h0, pulse_half_disabled .p1 h1, htri, hnoise⟩

theorem pulse_get_disabled {p : Pulse} (h : p.enabled = false) : p.get = 0#4 := by
  rw [Pulse.get, h, Bool.not_false, if_pos rfl]

theorem tri_get_disabled {t : Triangle} (h : t.enabled = false) : t.get = 0#4 := by
  rw [Triangle.get, h, Bool.not_false, if_pos rfl]

theorem noise_get_disabled {n : Noise} (h : n.enabled = false) : n.get = 0#4 := by
  rw [Noise.get, h, Bool.not_false, if_pos rfl]

/-- Settles O32: the clocked channels are all disabled, so their outputs are 0 and the sample a due tick pushes is their mix, 0. -/
theorem silentTicksPushZeroSamples : Obligations.SilentTicksPushZeroSamples := by
  intro s t hs hsilent h
  rcases exec_tick_cases h with ⟨-, rfl⟩ | ⟨hruns, rfl⟩
  · exact ⟨hsilent, 0, by decide, (List.append_nil _).symm⟩
  · obtain ⟨h0, h1, htri, hnoise⟩ := ticked_silent hsilent
    refine ⟨?_, ?_⟩
    · rw [State.silent, State.tickBody_p0, State.tickBody_p1, State.tickBody_tri, State.tickBody_noise]
      exact ⟨h0, h1, htri, hnoise⟩
    · have hroom := room_of_runs hruns
      by_cases hdue : 1789773 ≤ s.acc + 96000
      · refine ⟨1, Nat.le_refl 1, ?_⟩
        rw [sampleHistory_tick_due hs hdue (by omega), pulse_get_disabled h0, pulse_get_disabled h1, tri_get_disabled htri,
          noise_get_disabled hnoise, mixSample_silent, List.replicate_one]
      · refine ⟨0, Nat.zero_le 1, ?_⟩
        rw [sampleHistory_tick_idle h (.inl (Nat.lt_of_not_le hdue)), List.replicate_zero, List.append_nil]

end Sys2Proof.Proofs.Silence

/-! PROOFS. The assembler's PERIOD.P and the note period (30_encoding.md section 5; R61, R62). -/

namespace Sys2Proof.Proofs.Assembler

open Sys2Proof Sys2Proof.Machine
open Sys2Proof.Proofs.Encoding (append_toNat)
open Sys2Proof.Proofs.Writes (pulsePeriod_setReg_high)

/-! ### PERIOD.P -/

theorem lowByte_toNat (p : BitVec 11) : (lowByte p).toNat = p.toNat % 256 := by
  simp only [lowByte, BitVec.extractLsb'_toNat, Nat.shiftRight_zero]

theorem highByte_toNat (l : BitVec 5) (p : BitVec 11) : (highByte l p).toNat = l.toNat * 8 + p.toNat / 256 := by
  have h := p.isLt
  simp only [highByte, append_toNat, BitVec.extractLsb'_toNat, Nat.shiftRight_eq_div_pow]
  omega

/-- The two bytes of a period assemble it again, whatever the length code beside its high bits (R56). -/
theorem assemblePeriod_bytes (l : BitVec 5) (p : BitVec 11) : assemblePeriod (highByte l p) (lowByte p) = p.toNat := by
  have h := p.isLt
  rw [assemblePeriod_eq, highByte_toNat, lowByte_toNat]
  omega

/-- The length code of the high byte is the one it was built from. -/
theorem fLenIdx_highByte (l : BitVec 5) (p : BitVec 11) : fLenIdx (highByte l p) = l := by
  apply BitVec.eq_of_toNat_eq
  have h := p.isLt
  rw [fLenIdx, BitVec.extractLsb'_toNat, highByte_toNat, Nat.shiftRight_eq_div_pow]
  omega

/-- The two writes that PERIOD.P expands to (R61). -/
theorem expand_periodP (k : PulseId) (p : BitVec 11) (l : BitVec 5) :
    expand (.periodP (if k = .p0 then 0 else 1) p.toNat l.toNat) =
      some [writeAt (pulseLoIdx k) (lowByte p), writeAt (pulseHiIdx k) (highByte l p)] := by
  have hp : p.toNat ≤ 0x7FF := Nat.le_of_lt_succ p.isLt
  have hl : l.toNat ≤ 31 := Nat.le_of_lt_succ l.isLt
  cases k <;> simp [expand, Pseudo.wellFormed, pulseIdOf, hp, hl]

theorem exec_writeAt_low (k : PulseId) (d : Byte) (s : State) :
    exec (writeAt (pulseLoIdx k) d) s = .next (writePulseLow k d s) := by
  cases k <;> rfl

theorem exec_writeAt_high (k : PulseId) (d : Byte) (s : State) :
    exec (writeAt (pulseHiIdx k) d) s = .next (writePulseHigh k d s) := by
  cases k <;> rfl

/-- The channel after a write of its period's high byte. -/
theorem pulse_writePulseHigh (k : PulseId) (d : Byte) (s : State) : (writePulseHigh k d s).pulse k =
    ((s.pulse k).loadPeriod (assemblePeriod d (s.getReg (pulseLoIdx k)))).loadLength d := by
  rw [writePulseHigh, State.pulse_setPulse_same, pulsePeriod_setReg_high]

/-- The channel after a write of its period's low byte, whichever period that assembles. -/
theorem pulse_writePulseLow (k : PulseId) (d : Byte) (s : State) :
    ∃ raw, (writePulseLow k d s).pulse k = (s.pulse k).loadPeriod raw := by
  rw [writePulseLow, State.pulse_setPulse_same]
  exact ⟨_, rfl⟩

theorem getReg_writePulseLow (k : PulseId) (d : Byte) (s : State) : (writePulseLow k d s).getReg (pulseLoIdx k) = d := by
  rw [writePulseLow, State.getReg_setPulse, State.getReg_setReg_same]

/-- Settles O57: the second write assembles the whole period from its own byte and the byte the first one stored. -/
theorem periodPseudoInstructionSetsPeriodAndLength : Obligations.PeriodPseudoInstructionSetsPeriodAndLength := by
  intro k p l s
  obtain ⟨raw, hlow⟩ := pulse_writePulseLow k (lowByte p) s
  have hfinal : (writePulseHigh k (highByte l p) (writePulseLow k (lowByte p) s)).pulse k =
      (((s.pulse k).loadPeriod raw).loadPeriod p.toNat).loadLength (highByte l p) := by
    rw [pulse_writePulseHigh, getReg_writePulseLow, assemblePeriod_bytes, hlow]
  have hlen : ((((s.pulse k).loadPeriod raw).loadPeriod p.toNat).loadLength (highByte l p)).len.div.count = lengthOf l := by
    rw [Pulse.loadLength, LengthCounter.load_div, Divider.load_count, fLenIdx_highByte]
  refine ⟨_, _, _, _, expand_periodP k p l, exec_writeAt_low k _ s, exec_writeAt_high k _ _, ?_⟩
  rw [hfinal]
  exact ⟨rfl, rfl, hlen, rfl⟩

/-! ### Notes -/

/-- Settles O58: the quotient's two bounds, each side put over the same denominator. -/
theorem notePeriodIsTheNearestInteger : Obligations.NotePeriodIsTheNearestInteger := by
  intro divisor f hdiv hnum hden
  have hpos : (0 : Int) < divisor * f.num := by positivity
  have hshape : (2 * divisor * f.num : Int) = 2 * (divisor * f.num) := mul_assoc _ _ _
  rw [notePeriod, chipClockHz_val, hshape]
  generalize (divisor * f.num : Int) = q at hpos ⊢
  rw [Nat.cast_ofNat]
  generalize (2 * 1789773 * f.den : Int) = x
  have hlow : 2 * q * ((x - q) / (2 * q)) ≤ x - q := Int.mul_ediv_self_le (by omega)
  have hhigh : x - q < 2 * q * ((x - q) / (2 * q)) + 2 * q := Int.lt_mul_ediv_self_add (by omega)
  constructor <;> linarith

end Sys2Proof.Proofs.Assembler
